-- ==== Sys2Proof/Word.lean ====
section
/-! DEFINITION. The word types of the machine: 8-bit bytes and 16-bit words are bit vectors (spec R7),
register and key numbers are numbers below sixteen (R21, R32, R71). -/

namespace Sys2Proof

/-- A memory byte, a `V` register, a timer (R21, R30, R33). -/
abbrev Byte := BitVec 8

/-- An instruction word, `PC`, `I`, a stack entry (R24, R25, R29, R70). -/
abbrev Word := BitVec 16

/-- The number of a general register, 0 to 15; 15 is VF (R21, R22). -/
abbrev RegId := Fin 16

/-- The number of a key, 0 to 15 (R32). -/
abbrev KeyId := Fin 16

/-- The number of the flag register VF (R22). -/
abbrev VF : RegId := 15

end Sys2Proof
end

