-- ==== Sys2Proof/Config.lean ====
section
/-! DEFINITION. What an implementation fixes: the fixed parameters of R5 as named constants, the open
parameters of R6 as the fields of `Config`, and the one free value, the host's random byte (R225).
The default values of the open parameters are in Sys2Proof/Machine/Defaults.lean. -/

namespace Sys2Proof

/-- `MEM_SIZE` (R5): addresses 0x000 to 0xFFF. -/
abbrev memSize : Nat := 0x1000

/-- `LOAD_BASE` (R5): where `Load` puts the program. -/
abbrev loadBase : Nat := 0x200

/-- `MAX_PROGRAM` (R5): the longest image `Load` accepts. -/
abbrev maxProgram : Nat := 0xE00

/-- `PC_RESET` (R5). -/
abbrev pcReset : Word := 0x200

/-- The font is sixteen glyphs of five bytes (R34). -/
abbrev fontBytes : Nat := 80

/-- The open parameters of R6. The machine carries one value of this type and no event changes it
(notes/assumptions/2.md). -/
structure Config where
  /-- `FONT_BASE`: the address of the glyph of digit 0 (R33, R174). -/
  fontBase : Word
  /-- `FONT_DATA`: the 80 font bytes (R34). -/
  fontData : Vector Byte 80
  /-- `SHIFT_USES_VY` (R128, R130). -/
  shiftUsesVy : Bool
  /-- `LOADSTORE_INCREMENTS_I` (R176, R177). -/
  loadStoreIncrementsI : Bool
  /-- `FX1E_OVERFLOW_FLAG` (R141). -/
  fx1eOverflowFlag : Bool
  /-- `BNNN_ENABLED` (R86, R104). -/
  bnnnEnabled : Bool
  deriving DecidableEq, Repr

/-- The host's answers to `RandomByte()` (R142, R225), "an 8-bit input supplied by the host, any value,
under no law": a FREE VALUE without a body, applied to the number of bytes drawn so far
(notes/assumptions/3.md). Nothing can be proved about the byte it gives. -/
opaque Config.randomByte : Nat → Byte

end Sys2Proof
end

