-- ==== Sys2Proof/Syntax.lean ====
section
/-! DEFINITION. The instructions: one constructor per row of spec/opcode_table.json (R85), and the results
of decoding (R77). `x` and `y` are the register numbers of the X and Y fields, `nn`, `nnn` and `n` the
immediates, used as encoded (R71, R73, R74). -/

namespace Sys2Proof

/-- The 34 instructions of R85, in the order of the opcode table. -/
inductive Instr where
  /-- `00E0`, `CLS` (R100). -/
  | cls
  /-- `00EE`, `RET` (R101). -/
  | ret
  /-- `1NNN`, `JP NNN` (R102). -/
  | jp (nnn : BitVec 12)
  /-- `2NNN`, `CALL NNN` (R103). -/
  | call (nnn : BitVec 12)
  /-- `3XNN`, `SE Vx, NN` (R110). -/
  | seImm (x : RegId) (nn : Byte)
  /-- `4XNN`, `SNE Vx, NN` (R111). -/
  | sneImm (x : RegId) (nn : Byte)
  /-- `5XY0`, `SE Vx, Vy` (R112). -/
  | seReg (x y : RegId)
  /-- `6XNN`, `LD Vx, NN` (R120). -/
  | ldImm (x : RegId) (nn : Byte)
  /-- `7XNN`, `ADD Vx, NN` (R121). -/
  | addImm (x : RegId) (nn : Byte)
  /-- `8XY0`, `LD Vx, Vy` (R122). -/
  | ldReg (x y : RegId)
  /-- `8XY1`, `OR Vx, Vy` (R123). -/
  | orReg (x y : RegId)
  /-- `8XY2`, `AND Vx, Vy` (R124). -/
  | andReg (x y : RegId)
  /-- `8XY3`, `XOR Vx, Vy` (R125). -/
  | xorReg (x y : RegId)
  /-- `8XY4`, `ADD Vx, Vy` (R126). -/
  | addReg (x y : RegId)
  /-- `8XY5`, `SUB Vx, Vy` (R127). -/
  | subReg (x y : RegId)
  /-- `8XY6`, `SHR Vx, Vy` (R128); the Y field is in the word whether or not it is used (R74). -/
  | shr (x y : RegId)
  /-- `8XY7`, `SUBN Vx, Vy` (R129). -/
  | subn (x y : RegId)
  /-- `8XYE`, `SHL Vx, Vy` (R130). -/
  | shl (x y : RegId)
  /-- `9XY0`, `SNE Vx, Vy` (R113). -/
  | sneReg (x y : RegId)
  /-- `ANNN`, `LD I, NNN` (R140). -/
  | ldI (nnn : BitVec 12)
  /-- `BNNN`, `JP V0, NNN` (R104): a word of the machine only where `BNNN_ENABLED` (R86). -/
  | jpV0 (nnn : BitVec 12)
  /-- `CXNN`, `RND Vx, NN` (R142). -/
  | rnd (x : RegId) (nn : Byte)
  /-- `DXYN`, `DRW Vx, Vy, N` (R150). -/
  | drw (x y : RegId) (n : BitVec 4)
  /-- `EX9E`, `SKP Vx` (R160). -/
  | skp (x : RegId)
  /-- `EXA1`, `SKNP Vx` (R161). -/
  | sknp (x : RegId)
  /-- `FX07`, `LD Vx, DT` (R170). -/
  | ldVxDt (x : RegId)
  /-- `FX0A`, `LD Vx, K` (R171). -/
  | ldVxK (x : RegId)
  /-- `FX15`, `LD DT, Vx` (R172). -/
  | ldDtVx (x : RegId)
  /-- `FX18`, `LD ST, Vx` (R173). -/
  | ldStVx (x : RegId)
  /-- `FX1E`, `ADD I, Vx` (R141). -/
  | addI (x : RegId)
  /-- `FX29`, `LD F, Vx` (R174). -/
  | ldF (x : RegId)
  /-- `FX33`, `LD B, Vx` (R175). -/
  | ldB (x : RegId)
  /-- `FX55`, `LD [I], Vx` (R176). -/
  | ldMemVx (x : RegId)
  /-- `FX65`, `LD Vx, [I]` (R177). -/
  | ldVxMem (x : RegId)
  deriving DecidableEq, Repr

/-- What `Decode(w)` answers: "either an instruction with its fields or `UnknownOpcode`" (R77). -/
inductive Decoded where
  | instr (i : Instr)
  /-- No row of R77 matches the word; the word is kept, as R200 records it. -/
  | unknownOpcode (w : Word)
  deriving DecidableEq, Repr

/-- What decoding a sequence of bytes answers. -/
inductive DecodedBytes where
  /-- The first two bytes, taken big-endian, and the bytes after them. -/
  | word (d : Decoded) (rest : List Byte)
  /-- Fewer than two bytes: no instruction is that short (R70). -/
  | truncated
  deriving DecidableEq, Repr

end Sys2Proof
end

