-- ==== Sys2Proof/WellFormed.lean ====
section
/-! DEFINITION. Which instructions and which configurations are legal. The operand types of `Instr` already
bound every field (R71), so one check is left for an instruction: `BNNN` exists only where
`BNNN_ENABLED` is true (R86, R104). A configuration's font must lie below the program. -/

namespace Sys2Proof

/-- The instruction exists on a machine with this configuration (R85: 33 always, 34 with `BNNN_ENABLED`). -/
def Instr.wf (cfg : Config) : Instr → Bool
  | .cls => true
  | .ret => true
  | .jp _ => true
  | .call _ => true
  | .seImm _ _ => true
  | .sneImm _ _ => true
  | .seReg _ _ => true
  | .ldImm _ _ => true
  | .addImm _ _ => true
  | .ldReg _ _ => true
  | .orReg _ _ => true
  | .andReg _ _ => true
  | .xorReg _ _ => true
  | .addReg _ _ => true
  | .subReg _ _ => true
  | .shr _ _ => true
  | .subn _ _ => true
  | .shl _ _ => true
  | .sneReg _ _ => true
  | .ldI _ => true
  | .jpV0 _ => cfg.bnnnEnabled
  | .rnd _ _ => true
  | .drw _ _ _ => true
  | .skp _ => true
  | .sknp _ => true
  | .ldVxDt _ => true
  | .ldVxK _ => true
  | .ldDtVx _ => true
  | .ldStVx _ => true
  | .addI _ => true
  | .ldF _ => true
  | .ldB _ => true
  | .ldMemVx _ => true
  | .ldVxMem _ => true

/-- The font region `FONT_BASE`..`FONT_BASE`+79 lies below `LOAD_BASE`: the map puts it and the gap after it below
0x200 (R60), and `Load` cannot reach it (R244; notes/assumptions/11.md). -/
def Config.wf (cfg : Config) : Bool :=
  decide (cfg.fontBase.toNat + fontBytes ≤ loadBase)

end Sys2Proof
end

