-- ==== Sys2Proof/Decode.lean ====
section
/-! DEFINITION. Decoding and encoding (R70 to R77, R86, R87, R133, R178). `decode` is total: a word that no
row of R77 matches is rejected by name, `unknownOpcode`. After it `encode`, written from the format table
R72, and the host's `decodeTableWord`. -/

namespace Sys2Proof

/-! ## Fields (R71) -/

/-- `OP = w[15:12]`. -/
def opField (w : Word) : BitVec 4 := w.extractLsb' 12 4

/-- `X = w[11:8]`, the number of register Vx. -/
def xField (w : Word) : RegId := ⟨(w.extractLsb' 8 4).toNat, (w.extractLsb' 8 4).isLt⟩

/-- `Y = w[7:4]`, the number of register Vy. -/
def yField (w : Word) : RegId := ⟨(w.extractLsb' 4 4).toNat, (w.extractLsb' 4 4).isLt⟩

/-- `N = w[3:0]`. -/
def nField (w : Word) : BitVec 4 := w.extractLsb' 0 4

/-- `NN = w[7:0]`. -/
def nnField (w : Word) : Byte := w.extractLsb' 0 8

/-- `NNN = w[11:0]`. -/
def nnnField (w : Word) : BitVec 12 := w.extractLsb' 0 12

/-! ## Decode (R77) -/

/-- Group 0: the two fixed words `00E0` and `00EE`; every other word of the group is unknown (R87). -/
def decodeGroup0 (w : Word) : Decoded :=
  match (nnnField w).toNat with
  | 0x0E0 => .instr .cls
  | 0x0EE => .instr .ret
  | _ => .unknownOpcode w

/-- Group 8: the low nibble selects the operation (R77); 8 to D and F are unknown (R133). -/
def decodeGroup8 (w : Word) : Decoded :=
  match (nField w).toNat with
  | 0x0 => .instr (.ldReg (xField w) (yField w))
  | 0x1 => .instr (.orReg (xField w) (yField w))
  | 0x2 => .instr (.andReg (xField w) (yField w))
  | 0x3 => .instr (.xorReg (xField w) (yField w))
  | 0x4 => .instr (.addReg (xField w) (yField w))
  | 0x5 => .instr (.subReg (xField w) (yField w))
  | 0x6 => .instr (.shr (xField w) (yField w))
  | 0x7 => .instr (.subn (xField w) (yField w))
  | 0xE => .instr (.shl (xField w) (yField w))
  | _ => .unknownOpcode w

/-- Group E: the low byte selects the key skip (R77). -/
def decodeGroupE (w : Word) : Decoded :=
  match (nnField w).toNat with
  | 0x9E => .instr (.skp (xField w))
  | 0xA1 => .instr (.sknp (xField w))
  | _ => .unknownOpcode w

/-- Group F: the low byte selects the transfer (R77); the group has no other member (R178). -/
def decodeGroupF (w : Word) : Decoded :=
  match (nnField w).toNat with
  | 0x07 => .instr (.ldVxDt (xField w))
  | 0x0A => .instr (.ldVxK (xField w))
  | 0x15 => .instr (.ldDtVx (xField w))
  | 0x18 => .instr (.ldStVx (xField w))
  | 0x1E => .instr (.addI (xField w))
  | 0x29 => .instr (.ldF (xField w))
  | 0x33 => .instr (.ldB (xField w))
  | 0x55 => .instr (.ldMemVx (xField w))
  | 0x65 => .instr (.ldVxMem (xField w))
  | _ => .unknownOpcode w

/-- `Decode(w)` (R77): the high nibble first, then, where the group has sub-opcodes, the low nibble or
the low byte. Group B is an instruction only where `BNNN_ENABLED` (R86). -/
def decode (cfg : Config) (w : Word) : Decoded :=
  match (opField w).toNat with
  | 0x0 => decodeGroup0 w
  | 0x1 => .instr (.jp (nnnField w))
  | 0x2 => .instr (.call (nnnField w))
  | 0x3 => .instr (.seImm (xField w) (nnField w))
  | 0x4 => .instr (.sneImm (xField w) (nnField w))
  | 0x5 => if nField w = 0 then .instr (.seReg (xField w) (yField w)) else .unknownOpcode w
  | 0x6 => .instr (.ldImm (xField w) (nnField w))
  | 0x7 => .instr (.addImm (xField w) (nnField w))
  | 0x8 => decodeGroup8 w
  | 0x9 => if nField w = 0 then .instr (.sneReg (xField w) (yField w)) else .unknownOpcode w
  | 0xA => .instr (.ldI (nnnField w))
  | 0xB => if cfg.bnnnEnabled then .instr (.jpV0 (nnnField w)) else .unknownOpcode w
  | 0xC => .instr (.rnd (xField w) (nnField w))
  | 0xD => .instr (.drw (xField w) (yField w) (nField w))
  | 0xE => decodeGroupE w
  | 0xF => decodeGroupF w
  | _ => .unknownOpcode w

/-- Two bytes as a word, "the byte at the lower address in bits 15:8" (R53, R55). -/
def bigEndian (hi lo : Byte) : Word := hi ++ lo

/-- Decoding a sequence of bytes: the first two are the instruction, big-endian (R55, R70). -/
def decodeBytes (cfg : Config) : List Byte → DecodedBytes
  | hi :: lo :: rest => .word (decode cfg (bigEndian hi lo)) rest
  | [_] => .truncated
  | [] => .truncated

/-! ## Encode (R72) -/

/-- A register number as its 4-bit field (R71). -/
def regBits (x : RegId) : BitVec 4 := BitVec.ofNat 4 x.val

/-- Format `NNN`: `kNNN`. -/
def formatNNN (k : BitVec 4) (nnn : BitVec 12) : Word := k ++ nnn

/-- Format `XNN`: `kXNN`. -/
def formatXNN (k : BitVec 4) (x : RegId) (nn : Byte) : Word := k ++ regBits x ++ nn

/-- Format `XYN`: `kXYn`, with a literal sub-opcode or the field N last. -/
def formatXYN (k : BitVec 4) (x y : RegId) (n : BitVec 4) : Word := k ++ regBits x ++ regBits y ++ n

/-- The word of an instruction, from the format table of R72 and the patterns of R85. -/
def encode : Instr → Word
  | .cls => 0x00E0
  | .ret => 0x00EE
  | .jp nnn => formatNNN 0x1 nnn
  | .call nnn => formatNNN 0x2 nnn
  | .seImm x nn => formatXNN 0x3 x nn
  | .sneImm x nn => formatXNN 0x4 x nn
  | .seReg x y => formatXYN 0x5 x y 0x0
  | .ldImm x nn => formatXNN 0x6 x nn
  | .addImm x nn => formatXNN 0x7 x nn
  | .ldReg x y => formatXYN 0x8 x y 0x0
  | .orReg x y => formatXYN 0x8 x y 0x1
  | .andReg x y => formatXYN 0x8 x y 0x2
  | .xorReg x y => formatXYN 0x8 x y 0x3
  | .addReg x y => formatXYN 0x8 x y 0x4
  | .subReg x y => formatXYN 0x8 x y 0x5
  | .shr x y => formatXYN 0x8 x y 0x6
  | .subn x y => formatXYN 0x8 x y 0x7
  | .shl x y => formatXYN 0x8 x y 0xE
  | .sneReg x y => formatXYN 0x9 x y 0x0
  | .ldI nnn => formatNNN 0xA nnn
  | .jpV0 nnn => formatNNN 0xB nnn
  | .rnd x nn => formatXNN 0xC x nn
  | .drw x y n => formatXYN 0xD x y n
  | .skp x => formatXNN 0xE x 0x9E
  | .sknp x => formatXNN 0xE x 0xA1
  | .ldVxDt x => formatXNN 0xF x 0x07
  | .ldVxK x => formatXNN 0xF x 0x0A
  | .ldDtVx x => formatXNN 0xF x 0x15
  | .ldStVx x => formatXNN 0xF x 0x18
  | .addI x => formatXNN 0xF x 0x1E
  | .ldF x => formatXNN 0xF x 0x29
  | .ldB x => formatXNN 0xF x 0x33
  | .ldMemVx x => formatXNN 0xF x 0x55
  | .ldVxMem x => formatXNN 0xF x 0x65

/-- The bytes of an instruction as memory holds them: the high byte first (R55). -/
def encodeBytes (i : Instr) : List Byte :=
  [(encode i).extractLsb' 8 8, (encode i).extractLsb' 0 8]

/-! ## The host's question about the opcode table -/

/-- A configuration under which every row of spec/opcode_table.json is an instruction: the `BNNN` row
"requires BNNN_ENABLED = true". Only `bnnnEnabled` matters to the decoder. -/
def tableConfig : Config where
  fontBase := 0
  fontData := Vector.replicate 80 0
  shiftUsesVy := false
  loadStoreIncrementsI := false
  fx1eOverflowFlag := false
  bnnnEnabled := true

/-- The two bytes, high byte first, of a word given as a number whose bits above `nbits` are 0. -/
def tableBytes (nbits w : Nat) : List Byte :=
  let word := BitVec.ofNat 16 (w % 2 ^ nbits)
  [word.extractLsb' 8 8, word.extractLsb' 0 8]

/-- The instruction the decoder reads from the word `w` of a row of the table (notes/assumptions/7.md). -/
def decodeTableWord (nbits w : Nat) : Option Instr :=
  match decodeBytes tableConfig (tableBytes nbits w) with
  | .word (.instr i) _ => some i
  | .word (.unknownOpcode _) _ => none
  | .truncated => none

end Sys2Proof
end

