-- ==== Sys2Proof/Machine/Flags.lean ====
section
/-! DEFINITION. The flag results (R23, R132): each is a Bool here, and `flagByte` is the byte VF receives. -/

namespace Sys2Proof.Machine

/-- "A flag value is always 0x00 or 0x01" (R22, R132). -/
def flagByte (b : Bool) : Byte := if b then 1 else 0

/-- The carry of an 8-bit addition: "1 if a + b > 255 else 0" (R126, R132). -/
def carryOut (a b : Byte) : Bool := decide (255 < a.toNat + b.toNat)

/-- The flag of the subtraction a − b: "1 if a ≥ b else 0", no borrow (R127, R129, R132). -/
def noBorrow (a b : Byte) : Bool := decide (b.toNat ≤ a.toNat)

/-- The bit a right shift by one shifts out: the old bit 0 (R128). -/
def shiftedOutRight (src : Byte) : Bool := src.getLsbD 0

/-- The bit a left shift by one shifts out: the old bit 7 (R130). -/
def shiftedOutLeft (src : Byte) : Bool := src.getLsbD 7

/-- The overflow of `FX1E`: the sum leaves the 12-bit address space, "s > 0x0FFF" (R141). -/
def indexOverflow (i : Word) (a : Byte) : Bool := decide (0x0FFF < i.toNat + a.toNat)

end Sys2Proof.Machine
end

