-- ==== Sys2Proof/Machine/State.lean ====
section
/-! DEFINITION. The state of the machine (R20), the fault kinds (R200), the run status (R35), the state after
reset (R39), and the events of the host boundary (R10, R220). -/

namespace Sys2Proof.Machine

/-- The seven fault kinds of R200, "a closed enumeration of the seven names" (R201), each with the info R200
records. All are fatal (R207, R208). A fault is recorded in `STATUS` by the event that raises it, which
answers a next state; `step`, `tick`, `setKey` and `load` of a machine already faulted answer `.fault` with
the kind that stopped it, because no such event is enabled (R208; notes/assumptions/4.md). -/
inductive Fault where
  /-- Raised by `Load` of an image longer than 0xE00 bytes; info: the length (R243). Safe: the spec's own. -/
  | romTooLarge (length : Nat)
  /-- Raised by the fetch of any step, and by `DXYN`, `FX33`, `FX55`, `FX65`, for an address of 0x1000 or
  more; info: the lowest such address (R51, R53, R59). Safe: the spec's own. -/
  | memoryOutOfBounds (address : Nat)
  /-- Raised by `2NNN` with all sixteen stack entries in use (R103). Safe: the spec's own. -/
  | stackOverflow
  /-- Raised by `00EE` with an empty stack (R101). Safe: the spec's own. -/
  | stackUnderflow
  /-- Raised by decoding a word that is no instruction; info: the word (R77, R87). Safe: the spec's own. -/
  | unknownOpcode (word : Word)
  /-- Raised by nothing: every register number is four bits wide (R202). Safe. -/
  | invalidRegisterIndex
  /-- Raised by `EX9E`, `EXA1`, `FX29` with a register value above 15; info: the value (R162, R174, R203).
  Safe: a fault the real code may lack. -/
  | operandOutOfRange (value : Byte)
  deriving DecidableEq, Repr

/-- Why an event has no meaning. -/
inductive Refusal where
  /-- Raised by an arm of `exec` whose instruction has no meaning yet; no arm does so. Safe. -/
  | notModelled (mnemonic : String)
  /-- Raised by a `Load` that is not the first event after `Reset`: the spec does not enable it (R243).
  Safe: the real code may allow it. -/
  | loadNotEnabled
  deriving DecidableEq, Repr

/-- `STATUS` (R35). -/
inductive Status where
  | running
  /-- Suspended in the `FX0A` whose destination is register `x` (R171). -/
  | awaitingKey (x : RegId)
  /-- Stopped by a fault until `Reset` (R208). -/
  | faulted (f : Fault)
  deriving DecidableEq, Repr

/-- Memory as data: the bytes that differ from the reset contents, by rising address (`Memory.wf`). -/
abbrev Memory := List Host.Cell

/-- The framebuffer (R31): row `y` of 32, column `x` of 64, true for a set pixel. -/
abbrev Framebuffer := Vector (Vector Bool 64) 32

/-- The architectural state of R20, and three fields of the model's own: the configuration, the count of
random bytes drawn, and the trace of `Render` events. -/
structure State where
  /-- `MEM` (R33): 4096 bytes; an address not listed holds its reset contents. -/
  mem : Memory
  /-- `V[0]`..`V[15]` (R21); `V[15]` is VF (R22). -/
  v : Vector Byte 16
  /-- `I` (R24). -/
  i : Word
  /-- `PC` (R25). -/
  pc : Word
  /-- `STACK[0]`..`STACK[15]` (R29). -/
  stack : Vector Word 16
  /-- `SP` (R29): the number of live entries, 0 to 16. -/
  sp : Fin 17
  /-- `DT`, the delay timer (R30). -/
  dt : Byte
  /-- `ST`, the sound timer (R30). -/
  st : Byte
  /-- `FB` (R31). -/
  fb : Framebuffer
  /-- `KEY[0]`..`KEY[15]` (R32): true for pressed. -/
  key : Vector Bool 16
  /-- `STATUS` (R35). -/
  status : Status
  /-- The configuration of R6: not the spec's state, never changed (notes/assumptions/2.md). -/
  cfg : Config
  /-- How many random bytes have been drawn: the model's own (notes/assumptions/3.md). -/
  draws : Nat
  /-- The output trace: the grids of the `Render` events, oldest first (R224; notes/assumptions/5.md). -/
  renders : List Framebuffer
  deriving DecidableEq, Repr

/-- The clear framebuffer. -/
def blankFramebuffer : Framebuffer := Vector.replicate 32 (Vector.replicate 64 false)

/-- The state `Reset` leaves on a machine with this configuration (R39, R240, R241). -/
def State.resetWith (cfg : Config) : State where
  mem := []
  v := Vector.replicate 16 0
  i := 0
  pc := pcReset
  stack := Vector.replicate 16 0
  sp := 0
  dt := 0
  st := 0
  fb := blankFramebuffer
  key := Vector.replicate 16 false
  status := .running
  cfg := cfg
  draws := 0
  renders := []

/-- The machine right after reset, with the default parameters of R6. -/
def State.reset : State := State.resetWith Config.default

/-- The five events of R10, with what the host hands over (R220). -/
inductive Event where
  | reset
  | load (bytes : List Byte)
  | step
  | tick
  | setKey (k : KeyId) (pressed : Bool)
  deriving DecidableEq, Repr

/-- The machine and the one fact of the host protocol it depends on: whether `Load` is still enabled, that
is, whether no event has come since the last `Reset` (R243; notes/assumptions/6.md). -/
structure Session where
  core : State
  loadOpen : Bool
  deriving DecidableEq, Repr

end Sys2Proof.Machine
end

