-- ==== Sys2Proof/Machine/Operands.lean ====
section
/-! DEFINITION. The operand forms: a register, the source of a shift, an immediate widened to 16 bits, the
effective address of a data byte, the register block of `FX55` and `FX65`, the decimal digits of `FX33`, the
glyph address of `FX29`, the key a register names, and the pressed key `FX0A` latches. -/

namespace Sys2Proof.Machine

/-- `V[x]` (R8, R21). -/
def State.reg (s : State) (x : RegId) : Byte := s.v[x.val]

/-- What a shift shifts: `V[Y]` if `SHIFT_USES_VY`, else `V[X]` (R128, R130). -/
def State.shiftSource (s : State) (x y : RegId) : Byte :=
  if s.cfg.shiftUsesVy then s.reg y else s.reg x

/-- `zext_16(NNN)` (R73). -/
def addressOf (nnn : BitVec 12) : Word := nnn.setWidth 16

/-- `zext_16(V[x])`, for the sums of `FX1E` and `BNNN` (R104, R141). -/
def widen (a : Byte) : Word := a.setWidth 16

/-- `npc = PC + 2` (R76). -/
def State.npc (s : State) : Word := s.pc + 2

/-- The effective address of the k-th byte of a data access: the unbounded integer `I + k` (R57). -/
def State.dataAddress (s : State) (k : Nat) : Nat := s.i.toNat + k

/-- `V[0]`..`V[x]`, what `FX55` stores (R176). -/
def State.regBlock (s : State) (x : RegId) : List Byte := s.v.toList.take (x.val + 1)

/-- The three decimal digits of a byte, hundreds first (R175). -/
def decimalDigits (a : Byte) : List Byte :=
  [BitVec.ofNat 8 (a.toNat / 100), BitVec.ofNat 8 (a.toNat / 10 % 10), BitVec.ofNat 8 (a.toNat % 10)]

/-- `FONT_BASE + 5 * d` (R174). -/
def glyphAddress (cfg : Config) (d : Byte) : Word := cfg.fontBase + BitVec.ofNat 16 (5 * d.toNat)

/-- The key or digit a register value names: 0 to 15, and none above (R162, R174). -/
def indexOf (a : Byte) : Option KeyId :=
  if h : a.toNat < 16 then some ⟨a.toNat, h⟩ else none

/-- `KEY[k]` (R32). -/
def State.keyDown (s : State) (k : KeyId) : Bool := s.key[k.val]

/-- `min { k | KEY[k] }`, and none with all keys up (R171). -/
def State.lowestKey (s : State) : Option KeyId := (List.finRange 16).find? fun k => s.keyDown k

end Sys2Proof.Machine
end

