-- ==== Sys2Proof/Machine/Ops.lean ====
section
/-! DEFINITION. The named operations over memory and state, and taking a fault, which every meaning calls. -/

namespace Sys2Proof.Machine

/-- What a step or a meaning answers. -/
abbrev Result := Host.Outcome State Fault Refusal

/-! ## Memory (R33, R50 to R54) -/

/-- What an address not listed reads as: its reset contents, `FONT_DATA` at `FONT_BASE` and 0 elsewhere
(R33, R39). -/
def resetByte (cfg : Config) (a : Nat) : Byte :=
  if cfg.fontBase.toNat ≤ a then cfg.fontData.toList.getD (a - cfg.fontBase.toNat) 0 else 0

/-- The byte at an address: the listed one, else `d`. -/
def Memory.read (d : Byte) (a : Nat) : Memory → Byte
  | [] => d
  | c :: m => if c.1 = a then c.2 else Memory.read d a m

/-- Storing a byte, keeping the canonical form: `d` is what the address reads as when it is not listed. -/
def Memory.write (d : Byte) (a : Nat) (b : Byte) : Memory → Memory
  | [] => if b = d then [] else [(a, b)]
  | c :: m =>
    if a < c.1 then (if b = d then c :: m else (a, b) :: c :: m)
    else if c.1 = a then (if b = d then m else (a, b) :: m)
    else c :: Memory.write d a b m

/-- The canonical form, from a lowest admitted address on: rising addresses below 0x1000, and no entry equal
to what the address reads as when it is not listed. -/
def Memory.wfFrom (cfg : Config) (lo : Nat) : Memory → Bool
  | [] => true
  | c :: m =>
    decide (lo ≤ c.1) && decide (c.1 < memSize) && decide (c.2 ≠ resetByte cfg c.1) &&
      Memory.wfFrom cfg (c.1 + 1) m

/-- The canonical form of the whole memory. -/
def Memory.wf (cfg : Config) (m : Memory) : Bool := Memory.wfFrom cfg 0 m

/-- `MEM[a]`. -/
def State.byteAt (s : State) (a : Nat) : Byte := Memory.read (resetByte s.cfg a) a s.mem

/-- `MEM[a] <- b`, for an address already checked. -/
def State.putByte (s : State) (a : Nat) (b : Byte) : State :=
  { s with mem := Memory.write (resetByte s.cfg a) a b s.mem }

/-- Bytes at rising addresses from `a`, for addresses already checked. -/
def State.putBytes (s : State) (a : Nat) : List Byte → State
  | [] => s
  | b :: bs => (s.putByte a b).putBytes (a + 1) bs

/-- The `n` bytes from address `a`, for addresses already checked. -/
def State.bytesAt (s : State) (a n : Nat) : List Byte := (List.range n).map fun k => s.byteAt (a + k)

/-- `MemRead(a, 1)` (R52). -/
def State.readByte (s : State) (a : Nat) : Except Fault Byte :=
  if memSize ≤ a then .error (.memoryOutOfBounds a) else .ok (s.byteAt a)

/-- `MemRead(a, 2)`, big-endian (R53). -/
def State.readWord (s : State) (a : Nat) : Except Fault Word :=
  if memSize ≤ a then .error (.memoryOutOfBounds a)
  else if memSize ≤ a + 1 then .error (.memoryOutOfBounds (a + 1))
  else .ok (bigEndian (s.byteAt a) (s.byteAt (a + 1)))

/-- `MemWrite(a, 1, b)` (R54). -/
def State.writeByte (s : State) (a : Nat) (b : Byte) : Except Fault State :=
  if memSize ≤ a then .error (.memoryOutOfBounds a) else .ok (s.putByte a b)

/-- The check of all effective addresses of an access of `n` bytes from `a` before any effect: the fault
of the lowest address of 0x1000 or more, if there is one (R59, R156). -/
def blockFault (a n : Nat) : Option Fault :=
  if 0 < n ∧ memSize < a + n then some (.memoryOutOfBounds (max a memSize)) else none

/-- All `n` bytes at `I`, or the fault (R59, R156, R177). -/
def State.loadBlock (s : State) (n : Nat) : Except Fault (List Byte) :=
  match blockFault (s.dataAddress 0) n with
  | some f => .error f
  | none => .ok (s.bytesAt (s.dataAddress 0) n)

/-- All of `bs` stored at `I`, or the fault and nothing stored (R59, R175, R176). -/
def State.storeBlock (s : State) (bs : List Byte) : Except Fault State :=
  match blockFault (s.dataAddress 0) bs.length with
  | some f => .error f
  | none => .ok (s.putBytes (s.dataAddress 0) bs)

/-! ## Registers and the other state -/

/-- `V[x] <- b` (R8). -/
def State.setReg (s : State) (x : RegId) (b : Byte) : State := { s with v := s.v.set x.val b }

/-- `I <- w`. -/
def State.setI (s : State) (w : Word) : State := { s with i := w }

/-- `pc <- w`. -/
def State.setPc (s : State) (w : Word) : State := { s with pc := w }

/-- `DT <- b`. -/
def State.setDt (s : State) (b : Byte) : State := { s with dt := b }

/-- `ST <- b`. -/
def State.setSt (s : State) (b : Byte) : State := { s with st := b }

/-- `FB <- fb`. -/
def State.setFb (s : State) (fb : Framebuffer) : State := { s with fb := fb }

/-- `KEY[k] <- b`. -/
def State.setKeyLatch (s : State) (k : KeyId) (b : Bool) : State := { s with key := s.key.set k.val b }

/-- `STATUS <- st`. -/
def State.setStatus (s : State) (st : Status) : State := { s with status := st }

/-- `emit Render(FB)`: the grid joins the output trace (R9, R224). -/
def State.emitRender (s : State) : State := { s with renders := s.renders ++ [s.fb] }

/-- One random byte has been consumed (R142, R225). -/
def State.countDraw (s : State) : State := { s with draws := s.draws + 1 }

/-- `RandomByte()`: the host's next answer, a free value (R225). -/
def State.randomByte (s : State) : Byte := Config.randomByte s.draws

/-- The result to `V[x]`, then the flag to VF: the flag is written last and wins when x is 15 (R131). -/
def State.setRegFlag (s : State) (x : RegId) (b : Byte) (flag : Bool) : State :=
  (s.setReg x b).setReg VF (flagByte flag)

/-- Registers written one after another from register `k` up (R177). -/
def overwriteRegs (k : Nat) (v : Vector Byte 16) : List Byte → Vector Byte 16
  | [] => v
  | b :: bs => overwriteRegs (k + 1) (if h : k < 16 then v.set k b else v) bs

/-- `V[k] <- bs[k]` for every k below the length of `bs` (R177). -/
def State.setRegBlock (s : State) (bs : List Byte) : State := { s with v := overwriteRegs 0 s.v bs }

/-- `I <- (I + n) mod 2^16`, only with `LOADSTORE_INCREMENTS_I` (R176, R177). -/
def State.advanceI (s : State) (n : Nat) : State :=
  if s.cfg.loadStoreIncrementsI then s.setI (s.i + BitVec.ofNat 16 n) else s

/-- A push: `STACK[SP] <- w`, then `SP <- SP + 1`; none at capacity (R29, R103). -/
def State.push (s : State) (w : Word) : Option State :=
  if h : s.sp.val < 16 then
    some { s with stack := s.stack.set s.sp.val w, sp := ⟨s.sp.val + 1, by omega⟩ }
  else none

/-- A pop: the most recent entry and the state with `SP <- SP - 1`; none when empty (R29, R101). -/
def State.pop (s : State) : Option (Word × State) :=
  if h : 0 < s.sp.val then
    some (s.stack[s.sp.val - 1]'(by omega), { s with sp := ⟨s.sp.val - 1, by omega⟩ })
  else none

/-- The two decrements of `Tick` (R215). -/
def countDown (b : Byte) : Byte := if b = 0 then 0 else b - 1

/-! ## How an instruction ends -/

/-- `pc <- npc` (R76). -/
def State.advance (s : State) : State := s.setPc s.npc

/-- A skip: `pc <- npc + 2` when the condition holds, else `pc <- npc` (R114). -/
def State.skipIf (s : State) (c : Bool) : State := s.setPc (if c then s.npc + 2 else s.npc)

/-- The instruction completes with `pc <- npc`. -/
def complete (s : State) : Result := .next s.advance

/-- Fault entry (R207): `STATUS <- Faulted(f)`, every other state element, `PC` included, as before. -/
def State.raise (s : State) (f : Fault) : State := s.setStatus (.faulted f)

/-- Taking a fault: the one operation every fault of the machine goes through. The event answers the state
after fault entry; nothing returns from it (R207, R209; notes/assumptions/4.md). -/
def takeFault (f : Fault) (s : State) : Result := .next (s.raise f)

/-- An operation that may fault, and what to do with what it gives. -/
def orFault {α : Type} (s : State) (r : Except Fault α) (k : α → Result) : Result :=
  match r with
  | .error f => takeFault f s
  | .ok a => k a

/-! ## Fetch and decode (R75) -/

/-- Fetch at `PC` and decode: the fetch fault first, then the unknown opcode (R75, R205). -/
def State.fetchDecode (s : State) : Except Fault Instr :=
  match s.readWord s.pc.toNat with
  | .error f => .error f
  | .ok w =>
    match decode s.cfg w with
    | .instr i => .ok i
    | .unknownOpcode u => .error (.unknownOpcode u)

/-- The word of group B, the group that `BNNN_ENABLED` opens (R86). -/
def inGroupB (w : Word) : Bool := opField w = 0xB

/-- The program of one word placed where the next step fetches: the machine is running, the word's two
bytes stand at `PC`, and `BNNN` is enabled if the word is one (notes/assumptions/7.md). With `PC` at 0xFFF
or above there is no place for a word and the state is left as it is. -/
def State.placeWord (s : State) (bs : List Byte) : State :=
  match bs with
  | [hi, lo] =>
    if s.pc.toNat + 1 < memSize then
      let s' := s.putBytes s.pc.toNat bs
      { s' with
        status := .running
        cfg := { s'.cfg with bnnnEnabled := s'.cfg.bnnnEnabled || inGroupB (bigEndian hi lo) } }
    else s
  | _ => s

end Sys2Proof.Machine
end

