-- ==== Sys2Proof/Machine/Alu.lean ====
section
/-! DEFINITION. Immediate and register loads and arithmetic (spec/42_load_alu.md). All operands are read first,
then the result is written, then the flag (R131). -/

namespace Sys2Proof.Machine

/-- `6XNN` (R120). -/
def execLdImm (x : RegId) (nn : Byte) (s : State) : Result := complete (s.setReg x nn)

/-- `7XNN` (R121): no flag. -/
def execAddImm (x : RegId) (nn : Byte) (s : State) : Result := complete (s.setReg x (s.reg x + nn))

/-- `8XY0` (R122). -/
def execLdReg (x y : RegId) (s : State) : Result := complete (s.setReg x (s.reg y))

/-- `8XY1` (R123): VF is not written. -/
def execOrReg (x y : RegId) (s : State) : Result := complete (s.setReg x (s.reg x ||| s.reg y))

/-- `8XY2` (R124): VF is not written. -/
def execAndReg (x y : RegId) (s : State) : Result := complete (s.setReg x (s.reg x &&& s.reg y))

/-- `8XY3` (R125): VF is not written. -/
def execXorReg (x y : RegId) (s : State) : Result := complete (s.setReg x (s.reg x ^^^ s.reg y))

/-- `8XY4` (R126): VF is the carry out. -/
def execAddReg (x y : RegId) (s : State) : Result :=
  complete (s.setRegFlag x (s.reg x + s.reg y) (carryOut (s.reg x) (s.reg y)))

/-- `8XY5` (R127): VF is 1 when no borrow occurred. -/
def execSubReg (x y : RegId) (s : State) : Result :=
  complete (s.setRegFlag x (s.reg x - s.reg y) (noBorrow (s.reg x) (s.reg y)))

/-- `8XY6` (R128): VF is the bit shifted out. -/
def execShr (x y : RegId) (s : State) : Result :=
  complete (s.setRegFlag x (s.shiftSource x y >>> 1) (shiftedOutRight (s.shiftSource x y)))

/-- `8XY7` (R129): `8XY5` with the operands exchanged. -/
def execSubn (x y : RegId) (s : State) : Result :=
  complete (s.setRegFlag x (s.reg y - s.reg x) (noBorrow (s.reg y) (s.reg x)))

/-- `8XYE` (R130): VF is the bit shifted out. -/
def execShl (x y : RegId) (s : State) : Result :=
  complete (s.setRegFlag x (s.shiftSource x y <<< 1) (shiftedOutLeft (s.shiftSource x y)))

end Sys2Proof.Machine
end

