-- ==== Sys2Proof/Machine/Draw.lean ====
section
/-! DEFINITION. Draw and the XOR sprite rasteriser (spec/44_draw.md). -/

namespace Sys2Proof.Machine

/-- One sprite bit on its target pixel (R152, R153): dropped outside the grid; inside, the new pixel is the
old one XOR the bit, and a pixel that goes from set to unset is a collision (R154). -/
def drawPixel (px py : Nat) (bit : Bool) (acc : Framebuffer × Bool) : Framebuffer × Bool :=
  if h : px < 64 ∧ py < 32 then
    let old := (acc.1[py]'h.2)[px]'h.1
    let new := old ^^ bit
    (acc.1.set py ((acc.1[py]'h.2).set px new h.1) h.2, acc.2 || (old && !new))
  else acc

/-- Column `c` of a sprite row: bit 7 − c, the most significant bit leftmost (R151). -/
def spriteBit (b : Byte) (c : Nat) : Bool := b.getLsbD (7 - c)

/-- One sprite row at row `py`, columns `x0` to `x0` + 7 (R153). -/
def drawRow (x0 py : Nat) (b : Byte) (acc : Framebuffer × Bool) : Framebuffer × Bool :=
  (List.range 8).foldl (fun acc c => drawPixel (x0 + c) py (spriteBit b c) acc) acc

/-- The rows of a sprite from row `py` down (R153). -/
def drawRows (x0 : Nat) : Nat → List Byte → Framebuffer × Bool → Framebuffer × Bool
  | _, [], acc => acc
  | py, b :: bs, acc => drawRows x0 (py + 1) bs (drawRow x0 py b acc)

/-- `Raster(FB, x0, y0, b)`: the new grid and the collision result (R153). -/
def raster (fb : Framebuffer) (x0 y0 : Nat) (bs : List Byte) : Framebuffer × Bool :=
  drawRows x0 y0 bs (fb, false)

/-- The writes of a draw that read its sprite: the grid, then VF, then `pc <- npc` and `Render` (R150, R155). -/
def State.drawn (s : State) (r : Framebuffer × Bool) : State :=
  ((s.setFb r.1).setReg VF (flagByte r.2)).advance.emitRender

/-- `DXYN` (R150): all N sprite bytes are read before any pixel changes (R156). -/
def execDrw (x y : RegId) (n : BitVec 4) (s : State) : Result :=
  orFault s (s.loadBlock n.toNat) fun bs =>
    .next (s.drawn (raster s.fb (s.reg x).toNat (s.reg y).toNat bs))

end Sys2Proof.Machine
end

