-- ==== Sys2Proof/Machine/Flow.lean ====
section
/-! DEFINITION. Clear, return, jump and call (spec/40_clear_return_jump_call.md). -/

namespace Sys2Proof.Machine

/-- `00E0` (R100): every pixel to 0; VF untouched, no `Render`. -/
def execCls (s : State) : Result := complete (s.setFb blankFramebuffer)

/-- `00EE` (R101): pop into `PC`, or StackUnderflow. -/
def execRet (s : State) : Result :=
  match s.pop with
  | none => takeFault .stackUnderflow s
  | some (w, s') => .next (s'.setPc w)

/-- `1NNN` (R102). -/
def execJp (nnn : BitVec 12) (s : State) : Result := .next (s.setPc (addressOf nnn))

/-- `2NNN` (R103): push `npc`, or StackOverflow. -/
def execCall (nnn : BitVec 12) (s : State) : Result :=
  match s.push s.npc with
  | none => takeFault .stackOverflow s
  | some s' => .next (s'.setPc (addressOf nnn))

/-- `BNNN` (R104): the sum is at most 0x10FE and is not reduced. -/
def execJpV0 (nnn : BitVec 12) (s : State) : Result := .next (s.setPc (addressOf nnn + widen (s.reg 0)))

end Sys2Proof.Machine
end

