-- ==== Sys2Proof/Machine/IndexRandom.lean ====
section
/-! DEFINITION. The index register and the random byte (spec/43_index_random.md). -/

namespace Sys2Proof.Machine

/-- `ANNN` (R140). -/
def execLdI (nnn : BitVec 12) (s : State) : Result := complete (s.setI (addressOf nnn))

/-- The option of `FX1E`: VF gets the overflow flag only with `FX1E_OVERFLOW_FLAG` (R141). -/
def State.flagIfEnabled (s : State) (flag : Bool) : State :=
  if s.cfg.fx1eOverflowFlag then s.setReg VF (flagByte flag) else s

/-- `FX1E` (R141): the sum is reduced mod 2^16; the addend is read before VF is written. -/
def execAddI (x : RegId) (s : State) : Result :=
  complete ((s.setI (s.i + widen (s.reg x))).flagIfEnabled (indexOverflow s.i (s.reg x)))

/-- `CXNN` (R142): one random byte is consumed. -/
def execRnd (x : RegId) (nn : Byte) (s : State) : Result :=
  complete ((s.setReg x (s.randomByte &&& nn)).countDraw)

end Sys2Proof.Machine
end

