-- ==== Sys2Proof/Machine/Keys.lean ====
section
/-! DEFINITION. The key skips (spec/45_key_skips.md) and the key wait (R171). -/

namespace Sys2Proof.Machine

/-- A skip on the key that a register names; a value above 15 names none (R162). -/
def State.keySkip (s : State) (x : RegId) (c : Bool → Bool) : Result :=
  match indexOf (s.reg x) with
  | none => takeFault (.operandOutOfRange (s.reg x)) s
  | some k => .next (s.skipIf (c (s.keyDown k)))

/-- `EX9E` (R160). -/
def execSkp (x : RegId) (s : State) : Result := s.keySkip x fun down => down

/-- `EXA1` (R161). -/
def execSknp (x : RegId) (s : State) : Result := s.keySkip x fun down => !down

/-- The index of a key as the byte a register receives (R171). -/
def keyByte (k : KeyId) : Byte := BitVec.ofNat 8 k.val

/-- `FX0A` (R171): the lowest pressed key, or the wait with `PC` still at this instruction. -/
def execLdVxK (x : RegId) (s : State) : Result :=
  match s.lowestKey with
  | some k => complete (s.setReg x (keyByte k))
  | none => .next (s.setStatus (.awaitingKey x))

/-- A whole step in AwaitingKey status (R78, R171): no fetch, no decode. -/
def waitStep (x : RegId) (s : State) : Result :=
  match s.lowestKey with
  | some k => complete ((s.setReg x (keyByte k)).setStatus .running)
  | none => .next s

end Sys2Proof.Machine
end

