-- ==== Sys2Proof/Machine/Transfers.lean ====
section
/-! DEFINITION. Timer, font and memory transfers (spec/46_timer_key_font_transfers.md). -/

namespace Sys2Proof.Machine

/-- `FX07` (R170). -/
def execLdVxDt (x : RegId) (s : State) : Result := complete (s.setReg x s.dt)

/-- `FX15` (R172). -/
def execLdDtVx (x : RegId) (s : State) : Result := complete (s.setDt (s.reg x))

/-- `FX18` (R173). -/
def execLdStVx (x : RegId) (s : State) : Result := complete (s.setSt (s.reg x))

/-- `FX29` (R174): an address is computed, no memory is read. -/
def execLdF (x : RegId) (s : State) : Result :=
  match indexOf (s.reg x) with
  | none => takeFault (.operandOutOfRange (s.reg x)) s
  | some _ => complete (s.setI (glyphAddress s.cfg (s.reg x)))

/-- `FX33` (R175). -/
def execLdB (x : RegId) (s : State) : Result :=
  orFault s (s.storeBlock (decimalDigits (s.reg x))) complete

/-- `FX55` (R176): X is the field itself, the number of the last register stored. -/
def execLdMemVx (x : RegId) (s : State) : Result :=
  orFault s (s.storeBlock (s.regBlock x)) fun s' => complete (s'.advanceI (x.val + 1))

/-- `FX65` (R177): registers above X keep their values. -/
def execLdVxMem (x : RegId) (s : State) : Result :=
  orFault s (s.loadBlock (x.val + 1)) fun bs => complete ((s.setRegBlock bs).advanceI (x.val + 1))

end Sys2Proof.Machine
end

