-- ==== Sys2Proof/Machine/Step.lean ====
section
/-! DEFINITION. The `Step` event (R75), and the host's way to place one instruction. -/

namespace Sys2Proof.Machine

/-- A step in Running status: fetch, decode, execute; a fault of fetch or decode is taken (R75, R205). -/
def runningStep (s : State) : Host.Outcome State Fault Refusal :=
  match s.fetchDecode with
  | .error f => takeFault f s
  | .ok i => exec i s

/-- The `Step` event (R75). A faulted machine has no step: it stays stopped with its fault (R208;
notes/assumptions/4.md). -/
def step (s : State) : Host.Outcome State Fault Refusal :=
  match s.status with
  | .running => runningStep s
  | .awaitingKey x => waitStep x s
  | .faulted f => .fault f

/-- `s` with the word `w` as the next instruction `step` fetches and runs (notes/assumptions/7.md). -/
def State.withFetchWord (s : State) (nbits w : Nat) : State := s.placeWord (tableBytes nbits w)

end Sys2Proof.Machine
end

