-- ==== Sys2Proof/Machine/Events.lean ====
section
/-! DEFINITION. The host boundary (R10, R220): the five events, their outputs, and runs over a schedule. -/

namespace Sys2Proof.Machine

/-- `Tick` without its enabling condition: both timers count down, nothing else changes (R215). -/
def State.ticked (s : State) : State := { s with dt := countDown s.dt, st := countDown s.st }

/-- An event that is enabled in Running and AwaitingKey status; a faulted machine is stopped (R208). -/
def whenLive (s : State) (s' : State) : Result :=
  match s.status with
  | .running => .next s'
  | .awaitingKey _ => .next s'
  | .faulted f => .fault f

/-- The `Tick` event (R215). -/
def tick (s : State) : Result := whenLive s s.ticked

/-- The `SetKey` event (R222). -/
def setKey (k : KeyId) (pressed : Bool) (s : State) : Result := whenLive s (s.setKeyLatch k pressed)

/-- The `Load` event without its enabling condition (R243): the image from 0x200 up, or RomTooLarge. -/
def load (bytes : List Byte) (s : State) : Result :=
  if maxProgram < bytes.length then takeFault (.romTooLarge bytes.length) s
  else .next (s.putBytes loadBase bytes)

/-- The `Reset` event (R240): every state element at its reset value. The configuration is kept, and so is the
count of random bytes drawn, so that the bytes after a reset are new ones (notes/assumptions/3.md). -/
def State.resetAgain (s : State) : State := { State.resetWith s.cfg with draws := s.draws }

/-- A machine that has just been reset for the first time (R245). -/
def Session.start (cfg : Config) : Session := { core := State.resetWith cfg, loadOpen := true }

/-- An event of the core, which closes `Load` (R243). -/
def Session.after (r : Result) : Host.Outcome Session Fault Refusal :=
  match r with
  | .next s => .next { core := s, loadOpen := false }
  | .fault f => .fault f
  | .refused q => .refused q

/-- `Load`, enabled only right after `Reset`, at most once (R243); not on a faulted machine (R208). -/
def Session.load (bytes : List Byte) (h : Session) : Host.Outcome Session Fault Refusal :=
  match h.core.status, h.loadOpen with
  | .faulted f, _ => .fault f
  | _, true => Session.after (Machine.load bytes h.core)
  | _, false => .refused .loadNotEnabled

/-- One event (R10). `Reset` is enabled in every state (R240). -/
def handle (e : Event) (h : Session) : Host.Outcome Session Fault Refusal :=
  match e with
  | .reset => .next { core := h.core.resetAgain, loadOpen := true }
  | .load bytes => h.load bytes
  | .step => Session.after (step h.core)
  | .tick => Session.after (tick h.core)
  | .setKey k pressed => Session.after (setKey k pressed h.core)

/-- A schedule of events, in order, up to the first that is not enabled (R211). -/
def runEvents : List Event → Session → Host.Outcome Session Fault Refusal
  | [], h => .next h
  | e :: es, h =>
    match handle e h with
    | .next h' => runEvents es h'
    | .fault f => .fault f
    | .refused q => .refused q

/-- The output level `audio_active`: `ST > 0` (R226). -/
def State.audioActive (s : State) : Bool := decide (0 < s.st.toNat)

/-- The event result (R227), read off the state after the event: ok, or the fault it raised. -/
def State.eventResult (s : State) : Option Fault :=
  match s.status with
  | .running => none
  | .awaitingKey _ => none
  | .faulted f => some f

end Sys2Proof.Machine
end

