-- ==== Sys2Proof/Safety.lean ====
section
/-! DEFINITION. What counts as a safe run, in the terms claims use: pixels and sprite bits by their coordinates,
the invariant of the reachable states (R27, R36, R40), the reachable sessions, and the end of a run (R256). -/

namespace Sys2Proof.Machine

/-- The pixel in column `px` and row `py`; unset outside the grid (R31). -/
def pixelAt (fb : Framebuffer) (px py : Nat) : Bool :=
  if h : px < 64 ∧ py < 32 then (fb[py]'h.2)[px]'h.1 else false

/-- The bit a sprite drawn at (x0, y0) has for column `px` and row `py`: bit 7 − c of byte r for
`px = x0 + c` and `py = y0 + r`, and 0 where it has none (R151, R152). -/
def spriteAt (bs : List Byte) (x0 y0 px py : Nat) : Bool :=
  decide (x0 ≤ px ∧ px < x0 + 8 ∧ y0 ≤ py) && spriteBit (bs.getD (py - y0) 0) (px - x0)

/-- The status is a fault (R208). -/
def State.isFaulted (s : State) : Bool := s.eventResult.isSome

/-- The invariant of R40, with the canonical form of the model's memory and a legal configuration. The widths
of R40 are the types of the fields. -/
structure State.Inv (s : State) : Prop where
  /-- The font lies below the program (R60, R244). -/
  config : s.cfg.wf = true
  /-- Memory is in its canonical form. -/
  memory : Memory.wf s.cfg s.mem = true
  /-- "`PC` is in 0..0x10FE" (R27, R40). -/
  pcRange : s.pc.toNat ≤ 0x10FE
  /-- "every live stack entry is in 0x002..0x1000" (R40). -/
  liveEntries : ∀ (k : Fin 16), k.val < s.sp.val →
    2 ≤ (s.stack[k.val]).toNat ∧ (s.stack[k.val]).toNat ≤ 0x1000
  /-- "while it holds, PC is the address of an `FX0A` whose X field is x" (R36). -/
  waiting : ∀ x, s.status = .awaitingKey x → s.fetchDecode = .ok (.ldVxK x)

/-- The invariant of a session: its machine's, and that while `Load` is enabled the machine is as `Reset`
left it (R243); only the count of random bytes may differ from 0 (notes/assumptions/3.md). -/
structure Session.Inv (h : Session) : Prop where
  core : h.core.Inv
  fresh : h.loadOpen = true → h.core = { State.resetWith h.core.cfg with draws := h.core.draws }

/-- The sessions reachable from the first reset of a legally configured machine by events (R10, R40). -/
def Reachable (h : Session) : Prop :=
  ∃ cfg es, Config.wf cfg = true ∧ runEvents es (Session.start cfg) = .next h

/-- The suggested end of a run (R256): Running, and the word at `PC` is a `1NNN` with `NNN = PC`. -/
def State.atEnd (s : State) : Prop :=
  s.status = .running ∧ ∃ nnn, s.fetchDecode = .ok (.jp nnn) ∧ addressOf nnn = s.pc

end Sys2Proof.Machine
end

