-- ==== Sys2Proof/Certificates/Slice0/Obligations.lean ====
section
/-! DEFINITION. The statements for the provers. Values are written as the spec writes them: integers reduced mod
2^N (R7, R132), words as sums of their nibbles (R71). An equation `exec i s = .next { s with … }` says that the
instruction completes, its new values, and that every other state element is as before. -/

open Sys2Proof Sys2Proof.Machine

namespace Sys2Proof.Machine

/-! ## Terms the statements share -/

/-- The number `n` is the word of instruction `i` on every machine that has it, and of no other. -/
def IsWordOf (n : Nat) (i : Instr) : Prop :=
  n < 0x10000 ∧ encode i = BitVec.ofNat 16 n ∧
    ∀ cfg, i.wf cfg = true → decode cfg (BitVec.ofNat 16 n) = .instr i

/-- A flag as the byte VF receives: 1 if the condition holds, else 0. -/
def flagOf (p : Prop) [Decidable p] : Byte := if p then 1 else 0

/-- The words of R87's table, the group B row only where `BNNN_ENABLED` is false. -/
def IllegalWord (bnnnEnabled : Bool) (w : Word) : Prop :=
  (w.toNat < 0x1000 ∧ w.toNat ≠ 0x00E0 ∧ w.toNat ≠ 0x00EE) ∨
  (w.toNat / 0x1000 = 0x5 ∧ w.toNat % 16 ≠ 0) ∨
  (w.toNat / 0x1000 = 0x8 ∧ w.toNat % 16 ∈ [0x8, 0x9, 0xA, 0xB, 0xC, 0xD, 0xF]) ∨
  (w.toNat / 0x1000 = 0x9 ∧ w.toNat % 16 ≠ 0) ∨
  (w.toNat / 0x1000 = 0xB ∧ bnnnEnabled = false) ∨
  (w.toNat / 0x1000 = 0xE ∧ w.toNat % 256 ∉ [0x9E, 0xA1]) ∨
  (w.toNat / 0x1000 = 0xF ∧
    w.toNat % 256 ∉ [0x07, 0x0A, 0x15, 0x18, 0x1E, 0x29, 0x33, 0x55, 0x65])

/-- The registers an instruction's destination field names (R23, R131, R177). -/
def destinations : Instr → RegId → Prop
  | .ldImm x _, r | .addImm x _, r | .rnd x _, r => r = x
  | .ldReg x _, r | .orReg x _, r | .andReg x _, r | .xorReg x _, r => r = x
  | .addReg x _, r | .subReg x _, r | .shr x _, r | .subn x _, r | .shl x _, r => r = x
  | .ldVxDt x, r | .ldVxK x, r => r = x
  | .ldVxMem x, r => r ≤ x
  | .cls, _ | .ret, _ | .jp _, _ | .call _, _ | .jpV0 _, _ | .ldI _, _ => False
  | .seImm _ _, _ | .sneImm _ _, _ | .seReg _ _, _ | .sneReg _ _, _ | .skp _, _ | .sknp _, _ => False
  | .drw _ _ _, _ | .ldDtVx _, _ | .ldStVx _, _ | .addI _, _ | .ldF _, _ => False
  | .ldB _, _ | .ldMemVx _, _ => False

/-- The instructions that write VF as a flag: the table of R23. -/
def writesFlag (cfg : Config) : Instr → Prop
  | .addReg _ _ | .subReg _ _ | .shr _ _ | .subn _ _ | .shl _ _ | .drw _ _ _ => True
  | .addI _ => cfg.fx1eOverflowFlag = true
  | .cls | .ret | .jp _ | .call _ | .seImm _ _ | .sneImm _ _ | .seReg _ _ | .ldImm _ _ => False
  | .addImm _ _ | .ldReg _ _ | .orReg _ _ | .andReg _ _ | .xorReg _ _ | .sneReg _ _ => False
  | .ldI _ | .jpV0 _ | .rnd _ _ | .skp _ | .sknp _ | .ldVxDt _ | .ldVxK _ | .ldDtVx _ => False
  | .ldStVx _ | .ldF _ | .ldB _ | .ldMemVx _ | .ldVxMem _ => False

/-- How many bytes an instruction stores, from address `I` up (R58). -/
def storedBytes : Instr → Nat
  | .ldB _ => 3
  | .ldMemVx x => x.val + 1
  | .cls | .ret | .jp _ | .call _ | .seImm _ _ | .sneImm _ _ | .seReg _ _ | .ldImm _ _ => 0
  | .addImm _ _ | .ldReg _ _ | .orReg _ _ | .andReg _ _ | .xorReg _ _ | .sneReg _ _ => 0
  | .addReg _ _ | .subReg _ _ | .shr _ _ | .subn _ _ | .shl _ _ | .drw _ _ _ | .addI _ => 0
  | .ldI _ | .jpV0 _ | .rnd _ _ | .skp _ | .sknp _ | .ldVxDt _ | .ldVxK _ | .ldDtVx _ => 0
  | .ldStVx _ | .ldF _ | .ldVxMem _ => 0

/-- `PC` after an instruction that neither faults nor waits: the table of R26. -/
def pcAfter (i : Instr) (s t : State) : Prop :=
  match i with
  | .jp nnn | .call nnn => t.pc.toNat = nnn.toNat
  | .ret => ∃ k : Fin 16, k.val + 1 = s.sp.val ∧ t.pc = s.stack[k.val]
  | .jpV0 nnn => t.pc.toNat = nnn.toNat + (s.reg 0).toNat
  | .seImm x nn => t.pc = if s.reg x = nn then s.pc + 4 else s.pc + 2
  | .sneImm x nn => t.pc = if s.reg x ≠ nn then s.pc + 4 else s.pc + 2
  | .seReg x y => t.pc = if s.reg x = s.reg y then s.pc + 4 else s.pc + 2
  | .sneReg x y => t.pc = if s.reg x ≠ s.reg y then s.pc + 4 else s.pc + 2
  | .skp x => ∃ k : KeyId, k.val = (s.reg x).toNat ∧ t.pc = if s.keyDown k then s.pc + 4 else s.pc + 2
  | .sknp x => ∃ k : KeyId, k.val = (s.reg x).toNat ∧ t.pc = if s.keyDown k then s.pc + 2 else s.pc + 4
  | .cls | .ldImm _ _ | .addImm _ _ | .ldReg _ _ | .orReg _ _ | .andReg _ _ | .xorReg _ _ => t.pc = s.pc + 2
  | .addReg _ _ | .subReg _ _ | .shr _ _ | .subn _ _ | .shl _ _ | .ldI _ | .rnd _ _ => t.pc = s.pc + 2
  | .drw _ _ _ | .ldVxDt _ | .ldVxK _ | .ldDtVx _ | .ldStVx _ | .addI _ | .ldF _ => t.pc = s.pc + 2
  | .ldB _ | .ldMemVx _ | .ldVxMem _ => t.pc = s.pc + 2

/-- Which instruction can raise which fault in its execute stage (R204). -/
def canRaise : Instr → Fault → Prop
  | .call _, .stackOverflow => True
  | .ret, .stackUnderflow => True
  | .drw _ _ _, .memoryOutOfBounds _ => True
  | .ldB _, .memoryOutOfBounds _ => True
  | .ldMemVx _, .memoryOutOfBounds _ => True
  | .ldVxMem _, .memoryOutOfBounds _ => True
  | .skp _, .operandOutOfRange _ => True
  | .sknp _, .operandOutOfRange _ => True
  | .ldF _, .operandOutOfRange _ => True
  | _, _ => False

/-- `k` events of one kind, one after another. -/
def repeatEvent (e : State → Result) : Nat → State → Result
  | 0, s => .next s
  | k + 1, s =>
    match e s with
    | .next s' => repeatEvent e k s'
    | .fault f => .fault f
    | .refused q => .refused q

/-- Instructions executed one after another, up to the first stop. -/
def execAll : List Instr → State → Result
  | [], s => .next s
  | i :: is, s =>
    match exec i s with
    | .next s' => execAll is s'
    | .fault f => .fault f
    | .refused q => .refused q

end Sys2Proof.Machine

/-! ## Encoding -/

/-- R71, R72, R77: words written out from the spec's examples decode to the instructions they stand for. -/
def Obligations.SpecExampleWordsDecode : Prop :=
  ∀ p ∈ [((0x00E0 : Word), Instr.cls), (0x00EE, .ret), (0x1204, .jp 0x204), (0x2210, .call 0x210),
      (0x3100, .seImm 1 0), (0x9010, .sneReg 0 1), (0x6005, .ldImm 0 5), (0x71FF, .addImm 1 0xFF),
      (0x8014, .addReg 0 1), (0x820E, .shl 2 0), (0xA210, .ldI 0x210), (0xC10F, .rnd 1 0x0F),
      (0xD015, .drw 0 1 5), (0xE4A1, .sknp 4), (0xF10A, .ldVxK 1), (0xF265, .ldVxMem 2)],
    decode Config.default p.1 = .instr p.2

/-- R72, R77: decode of encode of every well-formed instruction is that instruction, whatever its operands. -/
def Obligations.DecodeInvertsEncode : Prop :=
  ∀ cfg i, i.wf cfg = true → decode cfg (encode i) = .instr i

/-- R77, R85: a word that decodes has one meaning: it is the encoding of a well-formed instruction. -/
def Obligations.DecodedWordIsItsEncoding : Prop :=
  ∀ cfg w i, decode cfg w = .instr i → i.wf cfg = true ∧ encode i = w

/-- R86, R133, R178 (and the ranges of R87's table): exactly the listed words are unknown, and a step that
fetches one raises UnknownOpcode with that word and changes nothing else. That the list is closed is the spec's
own decision D5; groups B and 8 are D6 and D7. -/
def Obligations.ExactlyTheListedWordsAreUnknown : Prop :=
  (∀ cfg w, decode cfg w = .unknownOpcode w ↔ IllegalWord cfg.bnnnEnabled w) ∧
  (∀ cfg w u, decode cfg w = .unknownOpcode u → u = w) ∧
  ∀ (s : State) (w : Word), s.status = .running → s.pc.toNat + 1 < 0x1000 →
    w.toNat = 256 * (s.byteAt s.pc.toNat).toNat + (s.byteAt (s.pc.toNat + 1)).toNat →
    IllegalWord s.cfg.bnnnEnabled w →
    step s = .next { s with status := .faulted (.unknownOpcode w) }

/-! ## Memory -/

/-- R52, R53, R54: the three access primitives, their bounds and byte order. The canonical form, needed only for
the byte read back from the address written, is an invariant (StepKeepsInvariant). That a word read fails at
0xFFF is the spec's own decision D25. -/
def Obligations.MemoryPrimitivesCheckBounds : Prop :=
  ∀ (s : State) (a : Nat),
    (0x1000 ≤ a → s.readByte a = .error (.memoryOutOfBounds a) ∧
      s.readWord a = .error (.memoryOutOfBounds a) ∧
      ∀ v, s.writeByte a v = .error (.memoryOutOfBounds a)) ∧
    (a < 0x1000 → s.readByte a = .ok (s.byteAt a) ∧
      ∀ v, ∃ t, s.writeByte a v = .ok t ∧ t = { s with mem := t.mem } ∧
        (Memory.wf s.cfg s.mem = true → Memory.wf t.cfg t.mem = true ∧ t.byteAt a = v) ∧
        ∀ n, n ≠ a → t.byteAt n = s.byteAt n) ∧
    (a = 0xFFF → s.readWord a = .error (.memoryOutOfBounds 0x1000)) ∧
    (a + 1 < 0x1000 → ∃ w, s.readWord a = .ok w ∧
      w.toNat = 256 * (s.byteAt a).toNat + (s.byteAt (a + 1)).toNat)

/-- Equal memories are equal data: two memories in canonical form with the same 4096 bytes are the same. The form
is the model's own representation of `MEM` (R33). -/
def Obligations.CanonicalMemoryIsDeterminedByItsBytes : Prop :=
  ∀ (cfg : Config) (m m' : Memory), Memory.wf cfg m = true → Memory.wf cfg m' = true →
    (∀ a < 0x1000, Memory.read (resetByte cfg a) a m = Memory.read (resetByte cfg a) a m') → m = m'

/-- R64: the next step executes the bytes a block store has just put in its place. -/
def Obligations.StoredCodeIsExecutedNext : Prop :=
  ∀ (s t : State) (x : RegId) (i : Instr) (w : Word),
    Memory.wf s.cfg s.mem = true → s.status = .running → 1 ≤ x.val →
    s.i = s.pc + 2 → s.pc.toNat + 2 + (x.val + 1) ≤ 0x1000 →
    w.toNat = 256 * (s.reg 0).toNat + (s.reg 1).toNat → decode s.cfg w = .instr i →
    exec (.ldMemVx x) s = .next t → step t = exec i t

/-! ## The step -/

/-- R75, R55: when the bytes at `PC` decode to `i`, the step is the execute stage of `i`. -/
def Obligations.StepRunsTheDecodedInstruction : Prop :=
  ∀ (s : State) (w : Word) (i : Instr), s.status = .running → s.pc.toNat + 1 < 0x1000 →
    w.toNat = 256 * (s.byteAt s.pc.toNat).toNat + (s.byteAt (s.pc.toNat + 1)).toNat →
    decode s.cfg w = .instr i → step s = exec i s

/-- R53, R75, R205: with `PC` at 0xFFF or above the step faults at fetch, whatever memory holds. At 0xFFF this is
the spec's own decision D25. -/
def Obligations.FetchOutsideMemoryFaults : Prop :=
  ∀ s : State, s.status = .running → 0xFFF ≤ s.pc.toNat →
    step s = .next { s with status := .faulted (.memoryOutOfBounds (max s.pc.toNat 0x1000)) }

/-- R171 (second half), R78: a step in AwaitingKey status re-checks the keys and nothing else. That the lowest
pressed key is taken is the spec's own decision D20. -/
def Obligations.WaitingStepChecksKeysOnly : Prop :=
  ∀ (s : State) (x : RegId), s.status = .awaitingKey x →
    ((∀ k, s.keyDown k = false) → step s = .next s) ∧
    ∀ k, s.keyDown k = true → (∀ j, j < k → s.keyDown j = false) →
      step s = .next { s with
        v := s.v.set x.val (BitVec.ofNat 8 k.val), pc := s.pc + 2, status := .running }

/-- R36: fetching the suspended `FX0A` again gives the same step as waiting, in every state of the invariant. The
equivalence is an inference the spec draws. -/
def Obligations.WaitingEqualsFetchingAgain : Prop :=
  ∀ (s : State) (x : RegId), s.Inv → s.status = .awaitingKey x →
    step s = step { s with status := .running }

/-- R35: the transitions of `STATUS` a step can make; none leads from AwaitingKey to a fault. `Faulted` as a
status is the spec's own decision D21. -/
def Obligations.StatusTransitionsOfAStep : Prop :=
  ∀ s t : State, step s = .next t →
    (s.status = .running ∧ (t.status = .running ∨ (∃ f, t.status = .faulted f) ∨
      ∃ x, t.status = .awaitingKey x ∧ s.fetchDecode = .ok (.ldVxK x) ∧ ∀ k, s.keyDown k = false)) ∨
    ∃ x, s.status = .awaitingKey x ∧
      ((t.status = .awaitingKey x ∧ ∀ k, s.keyDown k = false) ∨
       (t.status = .running ∧ ∃ k, s.keyDown k = true))

/-- R256: a jump to itself is a fixed point of the step. The definition of the end of a run is the spec's own
decision D32. -/
def Obligations.SelfJumpIsAFixedPoint : Prop :=
  ∀ s : State, s.atEnd → step s = .next s

/-! ## Faults -/

/-- R207: an event that raises a fault leaves every state element but `STATUS` as it was. That `PC` too is as
before is the spec's own decision D23. -/
def Obligations.FaultEntryChangesStatusOnly : Prop :=
  ∀ (e : Event) (h h' : Session) (f : Fault), (∀ g, h.core.status ≠ .faulted g) →
    handle e h = .next h' → h'.core.status = .faulted f →
    h'.core = { h.core with status := .faulted f }

/-- R204: which fault a running step can raise: fetch, decode, or the decoded instruction's own; a waiting step,
`Tick` and `SetKey` raise none. `OperandOutOfRange` is the spec's own fault kind (D19). -/
def Obligations.OnlyTheNamedInstructionsFault : Prop :=
  (∀ (s t : State) (f : Fault), s.status = .running → step s = .next t → t.status = .faulted f →
    (0xFFF ≤ s.pc.toNat ∧ f = .memoryOutOfBounds (max s.pc.toNat 0x1000)) ∨
    (∃ w, IllegalWord s.cfg.bnnnEnabled w ∧ f = .unknownOpcode w) ∨
    ∃ i, s.fetchDecode = .ok i ∧ canRaise i f) ∧
  (∀ (s t : State) (i : Instr) (f : Fault), s.status = .running → exec i s = .next t →
    t.status = .faulted f → canRaise i f) ∧
  ∀ (s t : State) (f : Fault), t.status = .faulted f →
    (∀ x, s.status = .awaitingKey x → step s ≠ .next t) ∧ tick s ≠ .next t ∧
    ∀ k b, setKey k b s ≠ .next t

/-- R208, with the model's answer for an event that is not enabled (notes/assumptions/4.md): a faulted machine
takes no event but `Reset`. -/
def Obligations.FaultedMachineAcceptsOnlyReset : Prop :=
  ∀ (h : Session) (f : Fault), h.core.status = .faulted f →
    handle .step h = .fault f ∧ handle .tick h = .fault f ∧
    (∀ k b, handle (.setKey k b) h = .fault f) ∧ (∀ bytes, handle (.load bytes) h = .fault f) ∧
    ∃ h', handle .reset h = .next h' ∧ h'.core.status = .running

/-! ## Invariants -/

/-- The reset machine, for every legal configuration, meets the invariant; the default is legal. A legal
configuration is the model's notion (notes/assumptions/11.md). -/
def Obligations.ResetMeetsInvariant : Prop :=
  Config.default.wf = true ∧ (∀ cfg, Config.wf cfg = true → (Session.start cfg).Inv) ∧ State.reset.Inv

/-- R27, R36, R40: every step keeps the invariant, from every state that meets it. -/
def Obligations.StepKeepsInvariant : Prop :=
  ∀ s t : State, s.Inv → step s = .next t → t.Inv

/-- R40, R243: every event keeps the invariant of the session. -/
def Obligations.EventsKeepInvariant : Prop :=
  ∀ (e : Event) (h h' : Session), h.Inv → handle e h = .next h' → h'.Inv

/-- R40: every session reachable by events meets the invariant. -/
def Obligations.ReachableSessionsMeetInvariant : Prop :=
  ∀ h : Session, Reachable h → h.Inv

/-! ## Frames over all instructions -/

/-- R22, R23: VF after every instruction that neither faults nor waits: the flag of R23's table, or, where the
instruction's destination does not name register 15, the old VF. The polarity of the subtract flag (D9), the
source of a shift (D10), the instructions that leave VF alone (D11, D13), the flag written last (D12) and the
option and threshold 0xFFF of `FX1E` (D14, general knowledge) are the spec's own decisions
(notes/assumptions/12.md). -/
def Obligations.FlagIsWrittenByTheTableOnly : Prop :=
  ∀ (i : Instr) (s t : State), s.status = .running → exec i s = .next t → t.status = .running →
    (writesFlag s.cfg i → t.reg 15 = 0 ∨ t.reg 15 = 1) ∧
    (¬ writesFlag s.cfg i → ¬ destinations i 15 → t.reg 15 = s.reg 15) ∧
    match i with
    | .addReg x y => t.reg 15 = flagOf (255 < (s.reg x).toNat + (s.reg y).toNat)
    | .subReg x y => t.reg 15 = flagOf ((s.reg x).toNat ≥ (s.reg y).toNat)
    | .subn x y => t.reg 15 = flagOf ((s.reg y).toNat ≥ (s.reg x).toNat)
    | .shr x y => t.reg 15 = flagOf ((if s.cfg.shiftUsesVy then s.reg y else s.reg x).toNat % 2 = 1)
    | .shl x y => t.reg 15 = flagOf ((if s.cfg.shiftUsesVy then s.reg y else s.reg x).toNat / 128 = 1)
    | .drw _ _ _ => (t.reg 15 = 1 ↔ ∃ px py, pixelAt s.fb px py = true ∧ pixelAt t.fb px py = false)
    | .addI x => s.cfg.fx1eOverflowFlag = true →
        t.reg 15 = flagOf (0xFFF < s.i.toNat + (s.reg x).toNat)
    | _ => True

/-- R21, R23: every register but the destinations, and VF where the flag is written, keeps its value. That the
logical operations and `7XNN` leave VF alone is the spec's own decision D11, D13 (notes/assumptions/12.md). -/
def Obligations.RegistersChangeOnlyAtDestinations : Prop :=
  ∀ (i : Instr) (s t : State) (r : RegId), exec i s = .next t → ¬ destinations i r →
    (r = 15 → ¬ writesFlag s.cfg i) → t.reg r = s.reg r

/-- R58: every byte of memory outside the bytes an instruction stores, from `I` up, reads as before; a form
that stores nothing leaves all of memory alone. -/
def Obligations.MemoryChangesOnlyWhereStored : Prop :=
  ∀ (i : Instr) (s t : State) (a : Nat), exec i s = .next t →
    ¬ (s.i.toNat ≤ a ∧ a < s.i.toNat + storedBytes i) → t.byteAt a = s.byteAt a

/-- R31, R157(c): the framebuffer changes only by `00E0` and `DXYN`, a draw only inside its rectangle. That the
rectangle starts at the unreduced (Vx, Vy), so that it is empty for a start beyond the grid, is the spec's own
decision D16 (notes/assumptions/12.md), which a run of the real code has yet to confirm. -/
def Obligations.FramebufferChangesOnlyByClearAndDraw : Prop :=
  ∀ (i : Instr) (s t : State) (px py : Nat), exec i s = .next t →
    match i with
    | .cls => pixelAt t.fb px py = false
    | .drw x y n =>
      ¬ ((s.reg x).toNat ≤ px ∧ px ≤ min ((s.reg x).toNat + 7) 63 ∧
          (s.reg y).toNat ≤ py ∧ py + 1 ≤ min ((s.reg y).toNat + n.toNat) 32) →
        pixelAt t.fb px py = pixelAt s.fb px py
    | _ => t.fb = s.fb

/-- R29, R24: the stack and `SP` change only by `2NNN` and `00EE`, `I` only by the instructions R24 names, and a
live entry is never overwritten. What `SP` counts is the spec's own decision D26. -/
def Obligations.StackAndIndexChangeOnlyByTheirInstructions : Prop :=
  ∀ (i : Instr) (s t : State), exec i s = .next t →
    ((∀ nnn, i ≠ .call nnn) → t.stack = s.stack) ∧
    ((∀ nnn, i ≠ .call nnn) → i ≠ .ret → t.sp = s.sp) ∧
    (∀ k : Fin 16, k.val < s.sp.val → t.stack[k.val] = s.stack[k.val]) ∧
    ((∀ nnn, i ≠ .ldI nnn) → (∀ x, i ≠ .addI x) → (∀ x, i ≠ .ldF x) →
      (s.cfg.loadStoreIncrementsI = false ∨ (∀ x, i ≠ .ldMemVx x ∧ i ≠ .ldVxMem x)) → t.i = s.i)

/-- R30, R32, R217: a step changes `DT` only by `FX15` and `ST` only by `FX18`, to the register's value, and
never the key latches or the configuration. -/
def Obligations.StepNeverCountsTimersOrMovesKeys : Prop :=
  ∀ s t : State, step s = .next t →
    t.key = s.key ∧ t.cfg = s.cfg ∧
    (t.dt = s.dt ∨ ∃ x, s.fetchDecode = .ok (.ldDtVx x) ∧ t.dt = s.reg x) ∧
    (t.st = s.st ∨ ∃ x, s.fetchDecode = .ok (.ldStVx x) ∧ t.st = s.reg x)

/-- R155, R224: an instruction emits one `Render`, of the grid it leaves, exactly when it is a draw that does not
fault. That nothing else renders is the spec's own decision D18. -/
def Obligations.RenderOncePerCompletedDraw : Prop :=
  ∀ (i : Instr) (s t : State), s.status = .running → exec i s = .next t →
    match i with
    | .drw _ _ _ => (t.status = .running → t.renders = s.renders ++ [t.fb]) ∧
        (t.status ≠ .running → t.renders = s.renders)
    | _ => t.renders = s.renders

/-- R26, with the conditions of R110 to R114, R160, R161: how each instruction leaves `PC`; a fault or a wait leaves
it alone, and `FX0A` waits exactly when no key is down. Which comparison each skip makes (D8), the sum of `BNNN`
(D6) and the `PC` of a fault (D23) are the spec's own decisions (notes/assumptions/12.md). -/
def Obligations.PcAfterEachInstruction : Prop :=
  ∀ (i : Instr) (s t : State), s.status = .running → exec i s = .next t →
    (t.status = .running → pcAfter i s t) ∧ (t.status ≠ .running → t.pc = s.pc) ∧
    ∀ x, i = .ldVxK x →
      (∀ k, s.keyDown k = true → t.pc = s.pc + 2) ∧ ((∀ k, s.keyDown k = false) → t.pc = s.pc)

/-! ## Clear, return, jump, call -/

/-- R100: `00E0` clears the framebuffer and touches nothing else, no `Render`. That no `Render` is emitted is the
spec's own decision D18. -/
def Obligations.ClsClearsTheGrid : Prop :=
  IsWordOf 0x00E0 .cls ∧
  ∀ s : State, ∃ g : Framebuffer, (∀ px py, pixelAt g px py = false) ∧
    exec .cls s = .next { s with fb := g, pc := s.pc + 2 }

/-- R101: `00EE` pops the most recent entry into `PC`, or raises StackUnderflow. -/
def Obligations.RetPopsTheStack : Prop :=
  IsWordOf 0x00EE .ret ∧
  ∀ s : State,
    (s.sp.val = 0 → exec .ret s = .next { s with status := .faulted .stackUnderflow }) ∧
    ∀ (k : Fin 16) (q : Fin 17), k.val + 1 = s.sp.val → q.val = k.val →
      exec .ret s = .next { s with sp := q, pc := s.stack[k.val] }

/-- R102: `1NNN` jumps to NNN. -/
def Obligations.JumpGoesToItsTarget : Prop :=
  ∀ nnn : BitVec 12, IsWordOf (0x1000 + nnn.toNat) (.jp nnn) ∧
    ∀ s : State, exec (.jp nnn) s = .next { s with pc := BitVec.ofNat 16 nnn.toNat }

/-- R103: `2NNN` pushes the address of the next instruction and jumps, or raises StackOverflow. -/
def Obligations.CallPushesTheReturnAddress : Prop :=
  ∀ nnn : BitVec 12, IsWordOf (0x2000 + nnn.toNat) (.call nnn) ∧
    ∀ s : State,
      (s.sp.val = 16 → exec (.call nnn) s = .next { s with status := .faulted .stackOverflow }) ∧
      ∀ (k : Fin 16) (q : Fin 17), k.val = s.sp.val → q.val = k.val + 1 →
        exec (.call nnn) s = .next { s with
          stack := s.stack.set k.val (s.pc + 2), sp := q, pc := BitVec.ofNat 16 nnn.toNat }

/-- R104, R86: `BNNN` jumps to NNN + V[0], unreduced; its words are instructions only where enabled. The
instruction is the spec's own decision D6. -/
def Obligations.JumpWithOffsetAddsV0 : Prop :=
  ∀ nnn : BitVec 12, IsWordOf (0xB000 + nnn.toNat) (.jpV0 nnn) ∧
    (∀ cfg, cfg.bnnnEnabled = false →
      decode cfg (BitVec.ofNat 16 (0xB000 + nnn.toNat)) =
        .unknownOpcode (BitVec.ofNat 16 (0xB000 + nnn.toNat))) ∧
    ∀ s : State, exec (.jpV0 nnn) s =
      .next { s with pc := BitVec.ofNat 16 (nnn.toNat + (s.reg 0).toNat) }

/-- The document's stack property, as R103 and `90_conflicts.md` C4 read it: N calls and N returns end at the
instruction after the first call, with the stack pointer, and all but dead stack entries, as before. -/
def Obligations.CallsAndReturnsRoundTrip : Prop :=
  ∀ (targets : List (BitVec 12)) (s : State), targets ≠ [] → s.sp.val + targets.length ≤ 16 →
    ∃ t, execAll (targets.map .call ++ List.replicate targets.length .ret) s = .next t ∧
      t = { s with pc := s.pc + 2, stack := t.stack } ∧
      ∀ k : Fin 16, k.val < s.sp.val → t.stack[k.val] = s.stack[k.val]

/-! ## Skips -/

/-- R110, R111, R112, R113, R114: the four register skips. Which comparison each pattern makes is the spec's own
decision D8. -/
def Obligations.ConditionalSkips : Prop :=
  ∀ (x y : RegId) (nn : Byte) (s : State),
    (IsWordOf (0x3000 + 0x100 * x.val + nn.toNat) (.seImm x nn) ∧
      exec (.seImm x nn) s = .next { s with pc := if s.reg x = nn then s.pc + 4 else s.pc + 2 }) ∧
    (IsWordOf (0x4000 + 0x100 * x.val + nn.toNat) (.sneImm x nn) ∧
      exec (.sneImm x nn) s = .next { s with pc := if s.reg x ≠ nn then s.pc + 4 else s.pc + 2 }) ∧
    (IsWordOf (0x5000 + 0x100 * x.val + 0x10 * y.val) (.seReg x y) ∧
      exec (.seReg x y) s =
        .next { s with pc := if s.reg x = s.reg y then s.pc + 4 else s.pc + 2 }) ∧
    (IsWordOf (0x9000 + 0x100 * x.val + 0x10 * y.val) (.sneReg x y) ∧
      exec (.sneReg x y) s =
        .next { s with pc := if s.reg x ≠ s.reg y then s.pc + 4 else s.pc + 2 })

/-- R160, R161, R162: the key skips, and OperandOutOfRange for a value above 15. The fault is the spec's own
decision D19, which pattern tests pressed is D8. -/
def Obligations.KeySkips : Prop :=
  ∀ (x : RegId) (s : State),
    IsWordOf (0xE09E + 0x100 * x.val) (.skp x) ∧ IsWordOf (0xE0A1 + 0x100 * x.val) (.sknp x) ∧
    (15 < (s.reg x).toNat →
      exec (.skp x) s = .next { s with status := .faulted (.operandOutOfRange (s.reg x)) } ∧
      exec (.sknp x) s = .next { s with status := .faulted (.operandOutOfRange (s.reg x)) }) ∧
    ∀ k : KeyId, k.val = (s.reg x).toNat →
      exec (.skp x) s = .next { s with pc := if s.keyDown k then s.pc + 4 else s.pc + 2 } ∧
      exec (.sknp x) s = .next { s with pc := if s.keyDown k then s.pc + 2 else s.pc + 4 }

/-! ## Loads and arithmetic -/

/-- R120, R122, R123, R124, R125: immediate and register loads and the logical operations; no flag. The
sub-opcode digits and the untouched VF are the spec's own decisions D7 and D11. -/
def Obligations.LoadsAndLogicalOperations : Prop :=
  ∀ (x y : RegId) (nn : Byte) (s : State),
    (IsWordOf (0x6000 + 0x100 * x.val + nn.toNat) (.ldImm x nn) ∧
      exec (.ldImm x nn) s = .next { s with v := s.v.set x.val nn, pc := s.pc + 2 }) ∧
    (IsWordOf (0x8000 + 0x100 * x.val + 0x10 * y.val) (.ldReg x y) ∧
      exec (.ldReg x y) s = .next { s with v := s.v.set x.val (s.reg y), pc := s.pc + 2 }) ∧
    (IsWordOf (0x8001 + 0x100 * x.val + 0x10 * y.val) (.orReg x y) ∧
      exec (.orReg x y) s =
        .next { s with v := s.v.set x.val (s.reg x ||| s.reg y), pc := s.pc + 2 }) ∧
    (IsWordOf (0x8002 + 0x100 * x.val + 0x10 * y.val) (.andReg x y) ∧
      exec (.andReg x y) s =
        .next { s with v := s.v.set x.val (s.reg x &&& s.reg y), pc := s.pc + 2 }) ∧
    (IsWordOf (0x8003 + 0x100 * x.val + 0x10 * y.val) (.xorReg x y) ∧
      exec (.xorReg x y) s =
        .next { s with v := s.v.set x.val (s.reg x ^^^ s.reg y), pc := s.pc + 2 })

/-- R121: `7XNN` adds mod 256 and writes no flag. The untouched VF is the spec's own decision D13. -/
def Obligations.AddImmediateWritesNoFlag : Prop :=
  ∀ (x : RegId) (nn : Byte) (s : State),
    IsWordOf (0x7000 + 0x100 * x.val + nn.toNat) (.addImm x nn) ∧
    exec (.addImm x nn) s = .next { s with
      v := s.v.set x.val (BitVec.ofNat 8 (((s.reg x).toNat + nn.toNat) % 256)), pc := s.pc + 2 }

/-- R126, R131, R132: `8XY4` adds mod 256; VF gets the carry, last. The digit and the order of the writes are the
spec's own decisions D7 and D12. -/
def Obligations.AddRegisterSetsCarry : Prop :=
  ∀ (x y : RegId) (s : State),
    IsWordOf (0x8004 + 0x100 * x.val + 0x10 * y.val) (.addReg x y) ∧
    exec (.addReg x y) s = .next { s with
      v := (s.v.set x.val (BitVec.ofNat 8 (((s.reg x).toNat + (s.reg y).toNat) % 256))).set 15
        (flagOf ((s.reg x).toNat + (s.reg y).toNat > 255))
      pc := s.pc + 2 }

/-- R127, R129, R131, R132: `8XY5` and `8XY7` subtract mod 256; VF is 1 when no borrow occurred, last. The
polarity of the flag is the spec's own decision D9. -/
def Obligations.SubtractSetsNoBorrow : Prop :=
  ∀ (x y : RegId) (s : State),
    (IsWordOf (0x8005 + 0x100 * x.val + 0x10 * y.val) (.subReg x y) ∧
      exec (.subReg x y) s = .next { s with
        v := (s.v.set x.val
            (BitVec.ofNat 8 (((s.reg x).toNat + 256 - (s.reg y).toNat) % 256))).set 15
          (flagOf ((s.reg x).toNat ≥ (s.reg y).toNat))
        pc := s.pc + 2 }) ∧
    (IsWordOf (0x8007 + 0x100 * x.val + 0x10 * y.val) (.subn x y) ∧
      exec (.subn x y) s = .next { s with
        v := (s.v.set x.val
            (BitVec.ofNat 8 (((s.reg y).toNat + 256 - (s.reg x).toNat) % 256))).set 15
          (flagOf ((s.reg y).toNat ≥ (s.reg x).toNat))
        pc := s.pc + 2 })

/-- R128, R130, R131: the shifts by one, under both values of `SHIFT_USES_VY`; VF is the bit shifted out, last.
The source is the spec's own decision D10. -/
def Obligations.ShiftsSetTheBitShiftedOut : Prop :=
  ∀ (x y : RegId) (s : State) (src : Byte),
    (src = if s.cfg.shiftUsesVy = true then s.reg y else s.reg x) →
    (IsWordOf (0x8006 + 0x100 * x.val + 0x10 * y.val) (.shr x y) ∧
      exec (.shr x y) s = .next { s with
        v := (s.v.set x.val (BitVec.ofNat 8 (src.toNat / 2))).set 15 (flagOf (src.toNat % 2 = 1))
        pc := s.pc + 2 }) ∧
    (IsWordOf (0x800E + 0x100 * x.val + 0x10 * y.val) (.shl x y) ∧
      exec (.shl x y) s = .next { s with
        v := (s.v.set x.val (BitVec.ofNat 8 (src.toNat * 2 % 256))).set 15
          (flagOf (src.toNat / 128 = 1))
        pc := s.pc + 2 })

/-! ## Index and random -/

/-- R140: `ANNN` loads I. -/
def Obligations.LoadIndex : Prop :=
  ∀ nnn : BitVec 12, IsWordOf (0xA000 + nnn.toNat) (.ldI nnn) ∧
    ∀ s : State, exec (.ldI nnn) s =
      .next { s with i := BitVec.ofNat 16 nnn.toNat, pc := s.pc + 2 }

/-- R141: `FX1E` adds to I mod 2^16; VF gets the overflow flag only under `FX1E_OVERFLOW_FLAG`. Width, option and
threshold are the spec's own decision D14. -/
def Obligations.AddIndexWrapsAt16Bits : Prop :=
  ∀ (x : RegId) (s : State) (sum : Nat), sum = s.i.toNat + (s.reg x).toNat →
    IsWordOf (0xF01E + 0x100 * x.val) (.addI x) ∧
    (s.cfg.fx1eOverflowFlag = false →
      exec (.addI x) s = .next { s with i := BitVec.ofNat 16 (sum % 0x10000), pc := s.pc + 2 }) ∧
    (s.cfg.fx1eOverflowFlag = true →
      exec (.addI x) s = .next { s with
        i := BitVec.ofNat 16 (sum % 0x10000), v := s.v.set 15 (flagOf (0x0FFF < sum)), pc := s.pc + 2 })

/-- R142, R225: `CXNN` masks the host's byte, a free value: this holds for every count of draws, and whatever
the byte is no bit outside NN is set. One byte is consumed, and none by any other instruction. That the
byte is `Config.randomByte` of a count, and the count itself, are the model's choice (notes/assumptions/3.md). -/
def Obligations.RandomByteIsMasked : Prop :=
  (∀ (x : RegId) (nn : Byte) (s : State),
    IsWordOf (0xC000 + 0x100 * x.val + nn.toNat) (.rnd x nn) ∧
    ∃ r : Byte, r = Config.randomByte s.draws ∧ (r &&& nn) &&& ~~~nn = 0 ∧
      exec (.rnd x nn) s = .next { s with
        v := s.v.set x.val (r &&& nn), draws := s.draws + 1, pc := s.pc + 2 }) ∧
  ∀ (i : Instr) (s t : State), (∀ x nn, i ≠ .rnd x nn) → exec i s = .next t → t.draws = s.draws

/-! ## Draw -/

/-- R150, R151, R152, R153, R154, R155: a draw whose sprite lies in memory XORs each sprite bit on its pixel,
clipped at the edges, sets VF to the collision and emits the new grid. Start coordinates, bit order and rendering
are the spec's own decisions D16, D17, D18. -/
def Obligations.DrawXorsTheSprite : Prop :=
  ∀ (x y : RegId) (n : BitVec 4),
    IsWordOf (0xD000 + 0x100 * x.val + 0x10 * y.val + n.toNat) (.drw x y n) ∧
    ∀ s : State, (n.toNat = 0 ∨ s.i.toNat + n.toNat ≤ 0x1000) →
      ∃ (g : Framebuffer) (hit : Bool),
        exec (.drw x y n) s = .next { s with
          fb := g, v := s.v.set 15 (flagOf (hit = true)), pc := s.pc + 2
          renders := s.renders ++ [g] } ∧
        (∀ px py, px < 64 → py < 32 →
          (∀ r c, r < n.toNat → c < 8 → px = (s.reg x).toNat + c → py = (s.reg y).toNat + r →
            pixelAt g px py = (pixelAt s.fb px py ^^ (s.byteAt (s.i.toNat + r)).getLsbD (7 - c))) ∧
          ((∀ r c, r < n.toNat → c < 8 → ¬ (px = (s.reg x).toNat + c ∧ py = (s.reg y).toNat + r)) →
            pixelAt g px py = pixelAt s.fb px py)) ∧
        (hit = true ↔ ∃ px py, pixelAt s.fb px py = true ∧ pixelAt g px py = false)

/-- R150, R156, R59: a draw with a sprite byte outside memory faults and draws nothing. The reported address is
fault info, the spec's own decisions D24 and D25, which the model keeps (notes/assumptions/9.md). -/
def Obligations.DrawOutsideMemoryFaults : Prop :=
  ∀ (x y : RegId) (n : BitVec 4) (s : State), 1 ≤ n.toNat → 0x1000 ≤ s.i.toNat + n.toNat - 1 →
    exec (.drw x y n) s =
      .next { s with status := .faulted (.memoryOutOfBounds (max s.i.toNat 0x1000)) }

/-- R157(a): the same sprite drawn twice restores the grid, and the second draw collides exactly when the
first turned a pixel on. -/
def Obligations.DrawingTwiceRestoresTheGrid : Prop :=
  ∀ (fb g g' : Framebuffer) (x0 y0 : Nat) (bs : List Byte) (hit hit' : Bool),
    raster fb x0 y0 bs = (g, hit) → raster g x0 y0 bs = (g', hit') →
    g' = fb ∧ (hit' = true ↔ ∃ px py, pixelAt fb px py = false ∧ pixelAt g px py = true)

/-! ## Timers, keys, font, memory transfers -/

/-- R170, R172, R173: the timer transfers. Which pattern moves what is the spec's own decision D8. -/
def Obligations.TimerTransfers : Prop :=
  ∀ (x : RegId) (s : State),
    (IsWordOf (0xF007 + 0x100 * x.val) (.ldVxDt x) ∧
      exec (.ldVxDt x) s = .next { s with v := s.v.set x.val s.dt, pc := s.pc + 2 }) ∧
    (IsWordOf (0xF015 + 0x100 * x.val) (.ldDtVx x) ∧
      exec (.ldDtVx x) s = .next { s with dt := s.reg x, pc := s.pc + 2 }) ∧
    (IsWordOf (0xF018 + 0x100 * x.val) (.ldStVx x) ∧
      exec (.ldStVx x) s = .next { s with st := s.reg x, pc := s.pc + 2 })

/-- R171 (first half): `FX0A` with a key down completes with the lowest pressed key; with all keys up it suspends
and changes nothing else. That the lowest pressed key is taken is the spec's own decision D20. -/
def Obligations.KeyWaitInstruction : Prop :=
  ∀ (x : RegId) (s : State),
    IsWordOf (0xF00A + 0x100 * x.val) (.ldVxK x) ∧
    (∀ k, s.keyDown k = true → (∀ j, j < k → s.keyDown j = false) →
      exec (.ldVxK x) s =
        .next { s with v := s.v.set x.val (BitVec.ofNat 8 k.val), pc := s.pc + 2 }) ∧
    ((∀ k, s.keyDown k = false) → exec (.ldVxK x) s = .next { s with status := .awaitingKey x })

/-- R174: `FX29` points I at the glyph of a digit, or raises OperandOutOfRange. The fault is the spec's own
decision D19. -/
def Obligations.GlyphAddressOfADigit : Prop :=
  ∀ (x : RegId) (s : State),
    IsWordOf (0xF029 + 0x100 * x.val) (.ldF x) ∧
    (15 < (s.reg x).toNat →
      exec (.ldF x) s = .next { s with status := .faulted (.operandOutOfRange (s.reg x)) }) ∧
    ((s.reg x).toNat ≤ 15 →
      exec (.ldF x) s = .next { s with
        i := BitVec.ofNat 16 (s.cfg.fontBase.toNat + 5 * (s.reg x).toNat), pc := s.pc + 2 })

/-- R175, R59: `FX33` stores the three decimal digits at I, or faults and stores nothing. The digit order is the
spec's own (D8), the reported address D24. -/
def Obligations.DecimalDigitsAreStored : Prop :=
  ∀ (x : RegId) (s : State),
    IsWordOf (0xF033 + 0x100 * x.val) (.ldB x) ∧
    (0x1000 ≤ s.i.toNat + 2 → exec (.ldB x) s =
      .next { s with status := .faulted (.memoryOutOfBounds (max s.i.toNat 0x1000)) }) ∧
    (Memory.wf s.cfg s.mem = true → s.i.toNat + 2 < 0x1000 →
      ∃ t, exec (.ldB x) s = .next t ∧ t = { s with mem := t.mem, pc := s.pc + 2 } ∧
        (t.byteAt s.i.toNat).toNat = (s.reg x).toNat / 100 ∧
        (t.byteAt (s.i.toNat + 1)).toNat = (s.reg x).toNat / 10 % 10 ∧
        (t.byteAt (s.i.toNat + 2)).toNat = (s.reg x).toNat % 10 ∧
        ∀ a, a < s.i.toNat ∨ s.i.toNat + 2 < a → t.byteAt a = s.byteAt a)

/-- R176, R59: `FX55` stores V[0]..V[X] at I, under both increment policies, or faults and stores nothing. The
increment is the spec's own decision D15. -/
def Obligations.RegisterBlockIsStored : Prop :=
  ∀ (x : RegId) (s : State),
    IsWordOf (0xF055 + 0x100 * x.val) (.ldMemVx x) ∧
    (0x1000 ≤ s.i.toNat + x.val → exec (.ldMemVx x) s =
      .next { s with status := .faulted (.memoryOutOfBounds (max s.i.toNat 0x1000)) }) ∧
    (Memory.wf s.cfg s.mem = true → s.i.toNat + x.val < 0x1000 →
      ∃ t, exec (.ldMemVx x) s = .next t ∧ t = { s with mem := t.mem, i := t.i, pc := s.pc + 2 } ∧
        t.i = (if s.cfg.loadStoreIncrementsI = true then
          BitVec.ofNat 16 ((s.i.toNat + x.val + 1) % 0x10000) else s.i) ∧
        (∀ r : RegId, r ≤ x → t.byteAt (s.i.toNat + r.val) = s.reg r) ∧
        ∀ a, a < s.i.toNat ∨ s.i.toNat + x.val < a → t.byteAt a = s.byteAt a)

/-- R177, R59: `FX65` loads V[0]..V[X] from I, under both increment policies, or faults and loads nothing. The
increment is the spec's own decision D15. -/
def Obligations.RegisterBlockIsLoaded : Prop :=
  ∀ (x : RegId) (s : State),
    IsWordOf (0xF065 + 0x100 * x.val) (.ldVxMem x) ∧
    (0x1000 ≤ s.i.toNat + x.val → exec (.ldVxMem x) s =
      .next { s with status := .faulted (.memoryOutOfBounds (max s.i.toNat 0x1000)) }) ∧
    (s.i.toNat + x.val < 0x1000 →
      ∃ t, exec (.ldVxMem x) s = .next t ∧ t = { s with v := t.v, i := t.i, pc := s.pc + 2 } ∧
        t.i = (if s.cfg.loadStoreIncrementsI = true then
          BitVec.ofNat 16 ((s.i.toNat + x.val + 1) % 0x10000) else s.i) ∧
        ∀ r : RegId, t.reg r = if r ≤ x then s.byteAt (s.i.toNat + r.val) else s.reg r)

/-- R176, R177: a block stored and then loaded back at the same I gives the registers back, whatever they
were changed to in between. -/
def Obligations.StoreThenLoadGivesTheRegistersBack : Prop :=
  ∀ (x : RegId) (s t : State) (v : Vector Byte 16), Memory.wf s.cfg s.mem = true →
    s.i.toNat + x.val < 0x1000 → exec (.ldMemVx x) s = .next t →
    ∃ u, exec (.ldVxMem x) { t with i := s.i, v := v } = .next u ∧
      ∀ r : RegId, u.reg r = if r ≤ x then s.reg r else v[r.val]

/-! ## Events of the host -/

/-- R39, R240, R241: what `Reset` leaves, from every session, faulted ones included. All but `PC` and the font
preload is the spec's own decision D2 (notes/assumptions/1.md); the kept configuration is the model's
(notes/assumptions/2.md). -/
def Obligations.ResetLeavesTheResetValues : Prop :=
  ∀ h : Session, ∃ s : State, handle .reset h = .next { core := s, loadOpen := true } ∧
    s.cfg = h.core.cfg ∧ s.pc.toNat = 0x200 ∧
    (∀ k : Fin 80, s.byteAt (s.cfg.fontBase.toNat + k.val) = s.cfg.fontData[k.val]) ∧
    (∀ a, a < s.cfg.fontBase.toNat ∨ s.cfg.fontBase.toNat + 80 ≤ a → s.byteAt a = 0) ∧
    (∀ r, s.reg r = 0) ∧ s.i = 0 ∧ s.sp.val = 0 ∧ (∀ k : Fin 16, s.stack[k.val] = 0) ∧
    s.dt = 0 ∧ s.st = 0 ∧ s.audioActive = false ∧ (∀ px py, pixelAt s.fb px py = false) ∧
    (∀ k, s.keyDown k = false) ∧ s.status = .running ∧ s.renders = []

/-- R243, R244: `Load` right after a reset copies the image from 0x200 up; an image longer than 0xE00 bytes
faults and leaves memory alone; at any other time it is not enabled. The font of a legal configuration
(notes/assumptions/11.md) is out of its reach. When `Load` is enabled is the spec's own decision D31, in the
model's strict reading (notes/assumptions/6.md). -/
def Obligations.LoadCopiesTheImage : Prop :=
  ∀ (h : Session) (bytes : List Byte), (∀ f, h.core.status ≠ .faulted f) →
    (h.loadOpen = false → handle (.load bytes) h = .refused .loadNotEnabled) ∧
    (h.loadOpen = true → 0xE00 < bytes.length →
      handle (.load bytes) h = .next { h with
        core := { h.core with status := .faulted (.romTooLarge bytes.length) }, loadOpen := false }) ∧
    (h.loadOpen = true → bytes.length ≤ 0xE00 → Memory.wf h.core.cfg h.core.mem = true →
      ∃ s, handle (.load bytes) h = .next { core := s, loadOpen := false } ∧
        s = { h.core with mem := s.mem } ∧
        (∀ k, k < bytes.length → s.byteAt (0x200 + k) = bytes.getD k 0) ∧
        (∀ a, a < 0x200 ∨ 0x200 + bytes.length ≤ a → s.byteAt a = h.core.byteAt a) ∧
        (h.core.cfg.wf = true → ∀ k : Fin 80,
          s.byteAt (h.core.cfg.fontBase.toNat + k.val) = h.core.byteAt (h.core.cfg.fontBase.toNat + k.val)))

/-- R215, R216: k ticks take a timer from v to max(v − k, 0), both timers independently, and change nothing
else. -/
def Obligations.TicksCountBothTimersDown : Prop :=
  ∀ (k : Nat) (s : State), (∀ f, s.status ≠ .faulted f) →
    ∃ t, repeatEvent tick k s = .next t ∧ t = { s with dt := t.dt, st := t.st } ∧
      t.dt.toNat = s.dt.toNat - k ∧ t.st.toNat = s.st.toNat - k

/-- R222: `SetKey` writes one latch and nothing else; it does not end a wait. -/
def Obligations.SetKeyWritesOneLatch : Prop :=
  ∀ (k : KeyId) (b : Bool) (s : State), (∀ f, s.status ≠ .faulted f) →
    ∃ t, setKey k b s = .next t ∧ t = { s with key := t.key } ∧
      ∀ j, t.keyDown j = if j = k then b else s.keyDown j

/-- R210: a tick commutes with every instruction that neither reads nor writes a timer, and a key change with every
instruction that reads no key, their faults included. For `CXNN` the two runs compared draw the same byte, because
the model's byte depends on the count of draws alone (notes/assumptions/3.md). -/
def Obligations.HostEventsCommuteWithOtherInstructions : Prop :=
  ∀ (i : Instr) (s t : State), exec i s = .next t →
    ((∀ x, i ≠ .ldVxDt x ∧ i ≠ .ldDtVx x ∧ i ≠ .ldStVx x) → exec i s.ticked = .next t.ticked) ∧
    ((∀ x, i ≠ .skp x ∧ i ≠ .sknp x ∧ i ≠ .ldVxK x) →
      ∀ (k : KeyId) (b : Bool), exec i (s.setKeyLatch k b) = .next (t.setKeyLatch k b))

/-- R226: `audio_active` is `ST > 0`; a step changes it only by `FX18`, to whether the register is not 0. The
level as the only output is the spec's own decision D29. -/
def Obligations.AudioFollowsTheSoundTimer : Prop :=
  (∀ s : State, s.audioActive = true ↔ 0 < s.st.toNat) ∧
  (∀ s t : State, step s = .next t → t.audioActive ≠ s.audioActive →
    ∃ x, s.fetchDecode = .ok (.ldStVx x) ∧ (t.audioActive = true ↔ s.reg x ≠ 0)) ∧
  ∀ s t : State, tick s = .next t → t.audioActive ≠ s.audioActive → s.st = 1 ∧ t.audioActive = false
end

