-- ==== Sys2Proof/Laws/Decode.lean ====
section
/-! SUPPORT. The fields of a word built in each format, and a word rebuilt from its fields (R71, R72). -/

namespace Sys2Proof

theorem regBits_toNat (x : RegId) : (regBits x).toNat = x.val := by
  have := x.isLt
  simp [regBits]

/-! ## Fields of the formats -/

section
variable (k : BitVec 4) (x y : RegId) (n : BitVec 4) (nn : Byte) (nnn : BitVec 12)

theorem formatNNN_toNat : (formatNNN k nnn).toNat = 0x1000 * k.toNat + nnn.toNat := by
  have := nnn.isLt
  simp only [formatNNN, BitVec.toNat_append]
  rw [← Nat.shiftLeft_add_eq_or_of_lt (by omega), Nat.shiftLeft_eq]
  omega

theorem formatXNN_toNat : (formatXNN k x nn).toNat = 0x1000 * k.toNat + 0x100 * x.val + nn.toNat := by
  have := nn.isLt
  have := x.isLt
  simp only [formatXNN, BitVec.toNat_append, regBits_toNat]
  rw [← Nat.shiftLeft_add_eq_or_of_lt (by omega), ← Nat.shiftLeft_add_eq_or_of_lt (by omega),
    Nat.shiftLeft_eq, Nat.shiftLeft_eq]
  omega

theorem formatXYN_toNat :
    (formatXYN k x y n).toNat = 0x1000 * k.toNat + 0x100 * x.val + 0x10 * y.val + n.toNat := by
  have := n.isLt
  have := x.isLt
  have := y.isLt
  simp only [formatXYN, BitVec.toNat_append, regBits_toNat]
  rw [← Nat.shiftLeft_add_eq_or_of_lt (by omega), ← Nat.shiftLeft_add_eq_or_of_lt (by omega),
    ← Nat.shiftLeft_add_eq_or_of_lt (by omega), Nat.shiftLeft_eq, Nat.shiftLeft_eq, Nat.shiftLeft_eq]
  omega

end

/-! ## The fields as numbers -/

section
variable (w : Word)

theorem opField_toNat : (opField w).toNat = w.toNat / 0x1000 := by
  have := w.isLt
  simp only [opField, BitVec.extractLsb'_toNat, Nat.shiftRight_eq_div_pow]
  omega

theorem xField_val : (xField w).val = w.toNat / 0x100 % 0x10 := by
  simp only [xField, BitVec.extractLsb'_toNat, Nat.shiftRight_eq_div_pow]

theorem yField_val : (yField w).val = w.toNat / 0x10 % 0x10 := by
  simp only [yField, BitVec.extractLsb'_toNat, Nat.shiftRight_eq_div_pow]

theorem nField_toNat : (nField w).toNat = w.toNat % 0x10 := by
  simp only [nField, BitVec.extractLsb'_toNat, Nat.shiftRight_zero]

theorem nnField_toNat : (nnField w).toNat = w.toNat % 0x100 := by
  simp only [nnField, BitVec.extractLsb'_toNat, Nat.shiftRight_zero]

theorem nnnField_toNat : (nnnField w).toNat = w.toNat % 0x1000 := by
  simp only [nnnField, BitVec.extractLsb'_toNat, Nat.shiftRight_zero]

end

/-! ## Fields of a word in a known format -/

section
variable (k : BitVec 4) (x y : RegId) (n : BitVec 4) (nn : Byte) (nnn : BitVec 12)

@[simp] theorem opField_formatNNN : opField (formatNNN k nnn) = k := by
  apply BitVec.eq_of_toNat_eq
  have := nnn.isLt
  rw [opField_toNat, formatNNN_toNat]
  omega

@[simp] theorem nnnField_formatNNN : nnnField (formatNNN k nnn) = nnn := by
  apply BitVec.eq_of_toNat_eq
  have := nnn.isLt
  rw [nnnField_toNat, formatNNN_toNat]
  omega

@[simp] theorem opField_formatXNN : opField (formatXNN k x nn) = k := by
  apply BitVec.eq_of_toNat_eq
  have := nn.isLt
  have := x.isLt
  rw [opField_toNat, formatXNN_toNat]
  omega

@[simp] theorem xField_formatXNN : xField (formatXNN k x nn) = x := by
  apply Fin.ext
  have := nn.isLt
  have := x.isLt
  rw [xField_val, formatXNN_toNat]
  omega

@[simp] theorem nnField_formatXNN : nnField (formatXNN k x nn) = nn := by
  apply BitVec.eq_of_toNat_eq
  have := nn.isLt
  rw [nnField_toNat, formatXNN_toNat]
  omega

@[simp] theorem opField_formatXYN : opField (formatXYN k x y n) = k := by
  apply BitVec.eq_of_toNat_eq
  have := n.isLt
  have := x.isLt
  have := y.isLt
  rw [opField_toNat, formatXYN_toNat]
  omega

@[simp] theorem xField_formatXYN : xField (formatXYN k x y n) = x := by
  apply Fin.ext
  have := n.isLt
  have := x.isLt
  have := y.isLt
  rw [xField_val, formatXYN_toNat]
  omega

@[simp] theorem yField_formatXYN : yField (formatXYN k x y n) = y := by
  apply Fin.ext
  have := n.isLt
  have := y.isLt
  rw [yField_val, formatXYN_toNat]
  omega

@[simp] theorem nField_formatXYN : nField (formatXYN k x y n) = n := by
  apply BitVec.eq_of_toNat_eq
  have := n.isLt
  rw [nField_toNat, formatXYN_toNat]
  omega

end

/-! ## A word rebuilt from its fields -/

section
variable (w : Word)

theorem formatNNN_fields : formatNNN (opField w) (nnnField w) = w := by
  apply BitVec.eq_of_toNat_eq
  rw [formatNNN_toNat, opField_toNat, nnnField_toNat]
  omega

theorem formatXNN_fields : formatXNN (opField w) (xField w) (nnField w) = w := by
  apply BitVec.eq_of_toNat_eq
  rw [formatXNN_toNat, opField_toNat, xField_val, nnField_toNat]
  omega

theorem formatXYN_fields : formatXYN (opField w) (xField w) (yField w) (nField w) = w := by
  apply BitVec.eq_of_toNat_eq
  rw [formatXYN_toNat, opField_toNat, xField_val, yField_val, nField_toNat]
  omega

end

/-- The big-endian word of two bytes as a number (R53, R55). -/
theorem bigEndian_toNat (hi lo : Byte) : (bigEndian hi lo).toNat = 0x100 * hi.toNat + lo.toNat := by
  have := lo.isLt
  simp only [bigEndian, BitVec.toNat_append]
  rw [← Nat.shiftLeft_add_eq_or_of_lt (by omega), Nat.shiftLeft_eq]
  omega

end Sys2Proof
end

