-- ==== Sys2Proof/Laws/State.lean ====
section
/-! SUPPORT. One lemma per field per update, true by rfl, and the same for the reads that go through accessors. -/

namespace Sys2Proof.Machine

/-- Fetch and decode read memory, the configuration and `PC`, and nothing else (R75). -/
theorem State.fetchDecode_congr {s t : State} (hm : t.mem = s.mem) (hc : t.cfg = s.cfg)
    (hp : t.pc = s.pc) : t.fetchDecode = s.fetchDecode := by
  simp only [State.fetchDecode, State.readWord, State.byteAt, hm, hc, hp]

variable (s : State)

/-! ## putByte -/

@[simp] theorem State.putByte_mem (a : Nat) (b : Byte) : (s.putByte a b).mem = Memory.write (resetByte s.cfg a) a b s.mem := rfl
@[simp] theorem State.putByte_v (a : Nat) (b : Byte) : (s.putByte a b).v = s.v := rfl
@[simp] theorem State.putByte_i (a : Nat) (b : Byte) : (s.putByte a b).i = s.i := rfl
@[simp] theorem State.putByte_pc (a : Nat) (b : Byte) : (s.putByte a b).pc = s.pc := rfl
@[simp] theorem State.putByte_stack (a : Nat) (b : Byte) : (s.putByte a b).stack = s.stack := rfl
@[simp] theorem State.putByte_sp (a : Nat) (b : Byte) : (s.putByte a b).sp = s.sp := rfl
@[simp] theorem State.putByte_dt (a : Nat) (b : Byte) : (s.putByte a b).dt = s.dt := rfl
@[simp] theorem State.putByte_st (a : Nat) (b : Byte) : (s.putByte a b).st = s.st := rfl
@[simp] theorem State.putByte_fb (a : Nat) (b : Byte) : (s.putByte a b).fb = s.fb := rfl
@[simp] theorem State.putByte_key (a : Nat) (b : Byte) : (s.putByte a b).key = s.key := rfl
@[simp] theorem State.putByte_status (a : Nat) (b : Byte) : (s.putByte a b).status = s.status := rfl
@[simp] theorem State.putByte_cfg (a : Nat) (b : Byte) : (s.putByte a b).cfg = s.cfg := rfl
@[simp] theorem State.putByte_draws (a : Nat) (b : Byte) : (s.putByte a b).draws = s.draws := rfl
@[simp] theorem State.putByte_renders (a : Nat) (b : Byte) : (s.putByte a b).renders = s.renders := rfl

@[simp] theorem State.putByte_reg (a : Nat) (b : Byte) (r : RegId) : (s.putByte a b).reg r = s.reg r := rfl
@[simp] theorem State.putByte_npc (a : Nat) (b : Byte) : (s.putByte a b).npc = s.npc := rfl
@[simp] theorem State.putByte_keyDown (a : Nat) (b : Byte) (j : KeyId) : (s.putByte a b).keyDown j = s.keyDown j := rfl

/-! ## setReg -/

@[simp] theorem State.setReg_mem (x : RegId) (b : Byte) : (s.setReg x b).mem = s.mem := rfl
@[simp] theorem State.setReg_v (x : RegId) (b : Byte) : (s.setReg x b).v = s.v.set x.val b := rfl
@[simp] theorem State.setReg_i (x : RegId) (b : Byte) : (s.setReg x b).i = s.i := rfl
@[simp] theorem State.setReg_pc (x : RegId) (b : Byte) : (s.setReg x b).pc = s.pc := rfl
@[simp] theorem State.setReg_stack (x : RegId) (b : Byte) : (s.setReg x b).stack = s.stack := rfl
@[simp] theorem State.setReg_sp (x : RegId) (b : Byte) : (s.setReg x b).sp = s.sp := rfl
@[simp] theorem State.setReg_dt (x : RegId) (b : Byte) : (s.setReg x b).dt = s.dt := rfl
@[simp] theorem State.setReg_st (x : RegId) (b : Byte) : (s.setReg x b).st = s.st := rfl
@[simp] theorem State.setReg_fb (x : RegId) (b : Byte) : (s.setReg x b).fb = s.fb := rfl
@[simp] theorem State.setReg_key (x : RegId) (b : Byte) : (s.setReg x b).key = s.key := rfl
@[simp] theorem State.setReg_status (x : RegId) (b : Byte) : (s.setReg x b).status = s.status := rfl
@[simp] theorem State.setReg_cfg (x : RegId) (b : Byte) : (s.setReg x b).cfg = s.cfg := rfl
@[simp] theorem State.setReg_draws (x : RegId) (b : Byte) : (s.setReg x b).draws = s.draws := rfl
@[simp] theorem State.setReg_renders (x : RegId) (b : Byte) : (s.setReg x b).renders = s.renders := rfl

@[simp] theorem State.setReg_byteAt (x : RegId) (b : Byte) (n : Nat) : (s.setReg x b).byteAt n = s.byteAt n := rfl
@[simp] theorem State.setReg_npc (x : RegId) (b : Byte) : (s.setReg x b).npc = s.npc := rfl
@[simp] theorem State.setReg_keyDown (x : RegId) (b : Byte) (j : KeyId) : (s.setReg x b).keyDown j = s.keyDown j := rfl
@[simp] theorem State.setReg_fetchDecode (x : RegId) (b : Byte) : (s.setReg x b).fetchDecode = s.fetchDecode :=
  State.fetchDecode_congr rfl rfl rfl

/-! ## setI -/

@[simp] theorem State.setI_mem (w : Word) : (s.setI w).mem = s.mem := rfl
@[simp] theorem State.setI_v (w : Word) : (s.setI w).v = s.v := rfl
@[simp] theorem State.setI_i (w : Word) : (s.setI w).i = w := rfl
@[simp] theorem State.setI_pc (w : Word) : (s.setI w).pc = s.pc := rfl
@[simp] theorem State.setI_stack (w : Word) : (s.setI w).stack = s.stack := rfl
@[simp] theorem State.setI_sp (w : Word) : (s.setI w).sp = s.sp := rfl
@[simp] theorem State.setI_dt (w : Word) : (s.setI w).dt = s.dt := rfl
@[simp] theorem State.setI_st (w : Word) : (s.setI w).st = s.st := rfl
@[simp] theorem State.setI_fb (w : Word) : (s.setI w).fb = s.fb := rfl
@[simp] theorem State.setI_key (w : Word) : (s.setI w).key = s.key := rfl
@[simp] theorem State.setI_status (w : Word) : (s.setI w).status = s.status := rfl
@[simp] theorem State.setI_cfg (w : Word) : (s.setI w).cfg = s.cfg := rfl
@[simp] theorem State.setI_draws (w : Word) : (s.setI w).draws = s.draws := rfl
@[simp] theorem State.setI_renders (w : Word) : (s.setI w).renders = s.renders := rfl

@[simp] theorem State.setI_byteAt (w : Word) (n : Nat) : (s.setI w).byteAt n = s.byteAt n := rfl
@[simp] theorem State.setI_reg (w : Word) (r : RegId) : (s.setI w).reg r = s.reg r := rfl
@[simp] theorem State.setI_npc (w : Word) : (s.setI w).npc = s.npc := rfl
@[simp] theorem State.setI_keyDown (w : Word) (j : KeyId) : (s.setI w).keyDown j = s.keyDown j := rfl
@[simp] theorem State.setI_fetchDecode (w : Word) : (s.setI w).fetchDecode = s.fetchDecode :=
  State.fetchDecode_congr rfl rfl rfl

/-! ## setPc -/

@[simp] theorem State.setPc_mem (w : Word) : (s.setPc w).mem = s.mem := rfl
@[simp] theorem State.setPc_v (w : Word) : (s.setPc w).v = s.v := rfl
@[simp] theorem State.setPc_i (w : Word) : (s.setPc w).i = s.i := rfl
@[simp] theorem State.setPc_pc (w : Word) : (s.setPc w).pc = w := rfl
@[simp] theorem State.setPc_stack (w : Word) : (s.setPc w).stack = s.stack := rfl
@[simp] theorem State.setPc_sp (w : Word) : (s.setPc w).sp = s.sp := rfl
@[simp] theorem State.setPc_dt (w : Word) : (s.setPc w).dt = s.dt := rfl
@[simp] theorem State.setPc_st (w : Word) : (s.setPc w).st = s.st := rfl
@[simp] theorem State.setPc_fb (w : Word) : (s.setPc w).fb = s.fb := rfl
@[simp] theorem State.setPc_key (w : Word) : (s.setPc w).key = s.key := rfl
@[simp] theorem State.setPc_status (w : Word) : (s.setPc w).status = s.status := rfl
@[simp] theorem State.setPc_cfg (w : Word) : (s.setPc w).cfg = s.cfg := rfl
@[simp] theorem State.setPc_draws (w : Word) : (s.setPc w).draws = s.draws := rfl
@[simp] theorem State.setPc_renders (w : Word) : (s.setPc w).renders = s.renders := rfl

@[simp] theorem State.setPc_byteAt (w : Word) (n : Nat) : (s.setPc w).byteAt n = s.byteAt n := rfl
@[simp] theorem State.setPc_reg (w : Word) (r : RegId) : (s.setPc w).reg r = s.reg r := rfl
@[simp] theorem State.setPc_keyDown (w : Word) (j : KeyId) : (s.setPc w).keyDown j = s.keyDown j := rfl

/-! ## setDt -/

@[simp] theorem State.setDt_mem (b : Byte) : (s.setDt b).mem = s.mem := rfl
@[simp] theorem State.setDt_v (b : Byte) : (s.setDt b).v = s.v := rfl
@[simp] theorem State.setDt_i (b : Byte) : (s.setDt b).i = s.i := rfl
@[simp] theorem State.setDt_pc (b : Byte) : (s.setDt b).pc = s.pc := rfl
@[simp] theorem State.setDt_stack (b : Byte) : (s.setDt b).stack = s.stack := rfl
@[simp] theorem State.setDt_sp (b : Byte) : (s.setDt b).sp = s.sp := rfl
@[simp] theorem State.setDt_dt (b : Byte) : (s.setDt b).dt = b := rfl
@[simp] theorem State.setDt_st (b : Byte) : (s.setDt b).st = s.st := rfl
@[simp] theorem State.setDt_fb (b : Byte) : (s.setDt b).fb = s.fb := rfl
@[simp] theorem State.setDt_key (b : Byte) : (s.setDt b).key = s.key := rfl
@[simp] theorem State.setDt_status (b : Byte) : (s.setDt b).status = s.status := rfl
@[simp] theorem State.setDt_cfg (b : Byte) : (s.setDt b).cfg = s.cfg := rfl
@[simp] theorem State.setDt_draws (b : Byte) : (s.setDt b).draws = s.draws := rfl
@[simp] theorem State.setDt_renders (b : Byte) : (s.setDt b).renders = s.renders := rfl

@[simp] theorem State.setDt_byteAt (b : Byte) (n : Nat) : (s.setDt b).byteAt n = s.byteAt n := rfl
@[simp] theorem State.setDt_reg (b : Byte) (r : RegId) : (s.setDt b).reg r = s.reg r := rfl
@[simp] theorem State.setDt_npc (b : Byte) : (s.setDt b).npc = s.npc := rfl
@[simp] theorem State.setDt_keyDown (b : Byte) (j : KeyId) : (s.setDt b).keyDown j = s.keyDown j := rfl
@[simp] theorem State.setDt_fetchDecode (b : Byte) : (s.setDt b).fetchDecode = s.fetchDecode :=
  State.fetchDecode_congr rfl rfl rfl

/-! ## setSt -/

@[simp] theorem State.setSt_mem (b : Byte) : (s.setSt b).mem = s.mem := rfl
@[simp] theorem State.setSt_v (b : Byte) : (s.setSt b).v = s.v := rfl
@[simp] theorem State.setSt_i (b : Byte) : (s.setSt b).i = s.i := rfl
@[simp] theorem State.setSt_pc (b : Byte) : (s.setSt b).pc = s.pc := rfl
@[simp] theorem State.setSt_stack (b : Byte) : (s.setSt b).stack = s.stack := rfl
@[simp] theorem State.setSt_sp (b : Byte) : (s.setSt b).sp = s.sp := rfl
@[simp] theorem State.setSt_dt (b : Byte) : (s.setSt b).dt = s.dt := rfl
@[simp] theorem State.setSt_st (b : Byte) : (s.setSt b).st = b := rfl
@[simp] theorem State.setSt_fb (b : Byte) : (s.setSt b).fb = s.fb := rfl
@[simp] theorem State.setSt_key (b : Byte) : (s.setSt b).key = s.key := rfl
@[simp] theorem State.setSt_status (b : Byte) : (s.setSt b).status = s.status := rfl
@[simp] theorem State.setSt_cfg (b : Byte) : (s.setSt b).cfg = s.cfg := rfl
@[simp] theorem State.setSt_draws (b : Byte) : (s.setSt b).draws = s.draws := rfl
@[simp] theorem State.setSt_renders (b : Byte) : (s.setSt b).renders = s.renders := rfl

@[simp] theorem State.setSt_byteAt (b : Byte) (n : Nat) : (s.setSt b).byteAt n = s.byteAt n := rfl
@[simp] theorem State.setSt_reg (b : Byte) (r : RegId) : (s.setSt b).reg r = s.reg r := rfl
@[simp] theorem State.setSt_npc (b : Byte) : (s.setSt b).npc = s.npc := rfl
@[simp] theorem State.setSt_keyDown (b : Byte) (j : KeyId) : (s.setSt b).keyDown j = s.keyDown j := rfl
@[simp] theorem State.setSt_fetchDecode (b : Byte) : (s.setSt b).fetchDecode = s.fetchDecode :=
  State.fetchDecode_congr rfl rfl rfl

/-! ## setFb -/

@[simp] theorem State.setFb_mem (g : Framebuffer) : (s.setFb g).mem = s.mem := rfl
@[simp] theorem State.setFb_v (g : Framebuffer) : (s.setFb g).v = s.v := rfl
@[simp] theorem State.setFb_i (g : Framebuffer) : (s.setFb g).i = s.i := rfl
@[simp] theorem State.setFb_pc (g : Framebuffer) : (s.setFb g).pc = s.pc := rfl
@[simp] theorem State.setFb_stack (g : Framebuffer) : (s.setFb g).stack = s.stack := rfl
@[simp] theorem State.setFb_sp (g : Framebuffer) : (s.setFb g).sp = s.sp := rfl
@[simp] theorem State.setFb_dt (g : Framebuffer) : (s.setFb g).dt = s.dt := rfl
@[simp] theorem State.setFb_st (g : Framebuffer) : (s.setFb g).st = s.st := rfl
@[simp] theorem State.setFb_fb (g : Framebuffer) : (s.setFb g).fb = g := rfl
@[simp] theorem State.setFb_key (g : Framebuffer) : (s.setFb g).key = s.key := rfl
@[simp] theorem State.setFb_status (g : Framebuffer) : (s.setFb g).status = s.status := rfl
@[simp] theorem State.setFb_cfg (g : Framebuffer) : (s.setFb g).cfg = s.cfg := rfl
@[simp] theorem State.setFb_draws (g : Framebuffer) : (s.setFb g).draws = s.draws := rfl
@[simp] theorem State.setFb_renders (g : Framebuffer) : (s.setFb g).renders = s.renders := rfl

@[simp] theorem State.setFb_byteAt (g : Framebuffer) (n : Nat) : (s.setFb g).byteAt n = s.byteAt n := rfl
@[simp] theorem State.setFb_reg (g : Framebuffer) (r : RegId) : (s.setFb g).reg r = s.reg r := rfl
@[simp] theorem State.setFb_npc (g : Framebuffer) : (s.setFb g).npc = s.npc := rfl
@[simp] theorem State.setFb_keyDown (g : Framebuffer) (j : KeyId) : (s.setFb g).keyDown j = s.keyDown j := rfl
@[simp] theorem State.setFb_fetchDecode (g : Framebuffer) : (s.setFb g).fetchDecode = s.fetchDecode :=
  State.fetchDecode_congr rfl rfl rfl

/-! ## setKeyLatch -/

@[simp] theorem State.setKeyLatch_mem (k : KeyId) (b : Bool) : (s.setKeyLatch k b).mem = s.mem := rfl
@[simp] theorem State.setKeyLatch_v (k : KeyId) (b : Bool) : (s.setKeyLatch k b).v = s.v := rfl
@[simp] theorem State.setKeyLatch_i (k : KeyId) (b : Bool) : (s.setKeyLatch k b).i = s.i := rfl
@[simp] theorem State.setKeyLatch_pc (k : KeyId) (b : Bool) : (s.setKeyLatch k b).pc = s.pc := rfl
@[simp] theorem State.setKeyLatch_stack (k : KeyId) (b : Bool) : (s.setKeyLatch k b).stack = s.stack := rfl
@[simp] theorem State.setKeyLatch_sp (k : KeyId) (b : Bool) : (s.setKeyLatch k b).sp = s.sp := rfl
@[simp] theorem State.setKeyLatch_dt (k : KeyId) (b : Bool) : (s.setKeyLatch k b).dt = s.dt := rfl
@[simp] theorem State.setKeyLatch_st (k : KeyId) (b : Bool) : (s.setKeyLatch k b).st = s.st := rfl
@[simp] theorem State.setKeyLatch_fb (k : KeyId) (b : Bool) : (s.setKeyLatch k b).fb = s.fb := rfl
@[simp] theorem State.setKeyLatch_key (k : KeyId) (b : Bool) : (s.setKeyLatch k b).key = s.key.set k.val b := rfl
@[simp] theorem State.setKeyLatch_status (k : KeyId) (b : Bool) : (s.setKeyLatch k b).status = s.status := rfl
@[simp] theorem State.setKeyLatch_cfg (k : KeyId) (b : Bool) : (s.setKeyLatch k b).cfg = s.cfg := rfl
@[simp] theorem State.setKeyLatch_draws (k : KeyId) (b : Bool) : (s.setKeyLatch k b).draws = s.draws := rfl
@[simp] theorem State.setKeyLatch_renders (k : KeyId) (b : Bool) : (s.setKeyLatch k b).renders = s.renders := rfl

@[simp] theorem State.setKeyLatch_byteAt (k : KeyId) (b : Bool) (n : Nat) : (s.setKeyLatch k b).byteAt n = s.byteAt n := rfl
@[simp] theorem State.setKeyLatch_reg (k : KeyId) (b : Bool) (r : RegId) : (s.setKeyLatch k b).reg r = s.reg r := rfl
@[simp] theorem State.setKeyLatch_npc (k : KeyId) (b : Bool) : (s.setKeyLatch k b).npc = s.npc := rfl
@[simp] theorem State.setKeyLatch_fetchDecode (k : KeyId) (b : Bool) : (s.setKeyLatch k b).fetchDecode = s.fetchDecode :=
  State.fetchDecode_congr rfl rfl rfl

/-! ## setStatus -/

@[simp] theorem State.setStatus_mem (q : Status) : (s.setStatus q).mem = s.mem := rfl
@[simp] theorem State.setStatus_v (q : Status) : (s.setStatus q).v = s.v := rfl
@[simp] theorem State.setStatus_i (q : Status) : (s.setStatus q).i = s.i := rfl
@[simp] theorem State.setStatus_pc (q : Status) : (s.setStatus q).pc = s.pc := rfl
@[simp] theorem State.setStatus_stack (q : Status) : (s.setStatus q).stack = s.stack := rfl
@[simp] theorem State.setStatus_sp (q : Status) : (s.setStatus q).sp = s.sp := rfl
@[simp] theorem State.setStatus_dt (q : Status) : (s.setStatus q).dt = s.dt := rfl
@[simp] theorem State.setStatus_st (q : Status) : (s.setStatus q).st = s.st := rfl
@[simp] theorem State.setStatus_fb (q : Status) : (s.setStatus q).fb = s.fb := rfl
@[simp] theorem State.setStatus_key (q : Status) : (s.setStatus q).key = s.key := rfl
@[simp] theorem State.setStatus_status (q : Status) : (s.setStatus q).status = q := rfl
@[simp] theorem State.setStatus_cfg (q : Status) : (s.setStatus q).cfg = s.cfg := rfl
@[simp] theorem State.setStatus_draws (q : Status) : (s.setStatus q).draws = s.draws := rfl
@[simp] theorem State.setStatus_renders (q : Status) : (s.setStatus q).renders = s.renders := rfl

@[simp] theorem State.setStatus_byteAt (q : Status) (n : Nat) : (s.setStatus q).byteAt n = s.byteAt n := rfl
@[simp] theorem State.setStatus_reg (q : Status) (r : RegId) : (s.setStatus q).reg r = s.reg r := rfl
@[simp] theorem State.setStatus_npc (q : Status) : (s.setStatus q).npc = s.npc := rfl
@[simp] theorem State.setStatus_keyDown (q : Status) (j : KeyId) : (s.setStatus q).keyDown j = s.keyDown j := rfl
@[simp] theorem State.setStatus_fetchDecode (q : Status) : (s.setStatus q).fetchDecode = s.fetchDecode :=
  State.fetchDecode_congr rfl rfl rfl

/-! ## emitRender -/

@[simp] theorem State.emitRender_mem : s.emitRender.mem = s.mem := rfl
@[simp] theorem State.emitRender_v : s.emitRender.v = s.v := rfl
@[simp] theorem State.emitRender_i : s.emitRender.i = s.i := rfl
@[simp] theorem State.emitRender_pc : s.emitRender.pc = s.pc := rfl
@[simp] theorem State.emitRender_stack : s.emitRender.stack = s.stack := rfl
@[simp] theorem State.emitRender_sp : s.emitRender.sp = s.sp := rfl
@[simp] theorem State.emitRender_dt : s.emitRender.dt = s.dt := rfl
@[simp] theorem State.emitRender_st : s.emitRender.st = s.st := rfl
@[simp] theorem State.emitRender_fb : s.emitRender.fb = s.fb := rfl
@[simp] theorem State.emitRender_key : s.emitRender.key = s.key := rfl
@[simp] theorem State.emitRender_status : s.emitRender.status = s.status := rfl
@[simp] theorem State.emitRender_cfg : s.emitRender.cfg = s.cfg := rfl
@[simp] theorem State.emitRender_draws : s.emitRender.draws = s.draws := rfl
@[simp] theorem State.emitRender_renders : s.emitRender.renders = s.renders ++ [s.fb] := rfl

@[simp] theorem State.emitRender_byteAt (n : Nat) : s.emitRender.byteAt n = s.byteAt n := rfl
@[simp] theorem State.emitRender_reg (r : RegId) : s.emitRender.reg r = s.reg r := rfl
@[simp] theorem State.emitRender_npc : s.emitRender.npc = s.npc := rfl
@[simp] theorem State.emitRender_keyDown (j : KeyId) : s.emitRender.keyDown j = s.keyDown j := rfl
@[simp] theorem State.emitRender_fetchDecode : s.emitRender.fetchDecode = s.fetchDecode :=
  State.fetchDecode_congr rfl rfl rfl

/-! ## countDraw -/

@[simp] theorem State.countDraw_mem : s.countDraw.mem = s.mem := rfl
@[simp] theorem State.countDraw_v : s.countDraw.v = s.v := rfl
@[simp] theorem State.countDraw_i : s.countDraw.i = s.i := rfl
@[simp] theorem State.countDraw_pc : s.countDraw.pc = s.pc := rfl
@[simp] theorem State.countDraw_stack : s.countDraw.stack = s.stack := rfl
@[simp] theorem State.countDraw_sp : s.countDraw.sp = s.sp := rfl
@[simp] theorem State.countDraw_dt : s.countDraw.dt = s.dt := rfl
@[simp] theorem State.countDraw_st : s.countDraw.st = s.st := rfl
@[simp] theorem State.countDraw_fb : s.countDraw.fb = s.fb := rfl
@[simp] theorem State.countDraw_key : s.countDraw.key = s.key := rfl
@[simp] theorem State.countDraw_status : s.countDraw.status = s.status := rfl
@[simp] theorem State.countDraw_cfg : s.countDraw.cfg = s.cfg := rfl
@[simp] theorem State.countDraw_draws : s.countDraw.draws = s.draws + 1 := rfl
@[simp] theorem State.countDraw_renders : s.countDraw.renders = s.renders := rfl

@[simp] theorem State.countDraw_byteAt (n : Nat) : s.countDraw.byteAt n = s.byteAt n := rfl
@[simp] theorem State.countDraw_reg (r : RegId) : s.countDraw.reg r = s.reg r := rfl
@[simp] theorem State.countDraw_npc : s.countDraw.npc = s.npc := rfl
@[simp] theorem State.countDraw_keyDown (j : KeyId) : s.countDraw.keyDown j = s.keyDown j := rfl
@[simp] theorem State.countDraw_fetchDecode : s.countDraw.fetchDecode = s.fetchDecode :=
  State.fetchDecode_congr rfl rfl rfl

/-! ## setRegFlag -/

@[simp] theorem State.setRegFlag_mem (x : RegId) (b : Byte) (c : Bool) : (s.setRegFlag x b c).mem = s.mem := rfl
theorem State.setRegFlag_v (x : RegId) (b : Byte) (c : Bool) : (s.setRegFlag x b c).v = ((s.setReg x b).setReg VF (flagByte c)).v := rfl
@[simp] theorem State.setRegFlag_i (x : RegId) (b : Byte) (c : Bool) : (s.setRegFlag x b c).i = s.i := rfl
@[simp] theorem State.setRegFlag_pc (x : RegId) (b : Byte) (c : Bool) : (s.setRegFlag x b c).pc = s.pc := rfl
@[simp] theorem State.setRegFlag_stack (x : RegId) (b : Byte) (c : Bool) : (s.setRegFlag x b c).stack = s.stack := rfl
@[simp] theorem State.setRegFlag_sp (x : RegId) (b : Byte) (c : Bool) : (s.setRegFlag x b c).sp = s.sp := rfl
@[simp] theorem State.setRegFlag_dt (x : RegId) (b : Byte) (c : Bool) : (s.setRegFlag x b c).dt = s.dt := rfl
@[simp] theorem State.setRegFlag_st (x : RegId) (b : Byte) (c : Bool) : (s.setRegFlag x b c).st = s.st := rfl
@[simp] theorem State.setRegFlag_fb (x : RegId) (b : Byte) (c : Bool) : (s.setRegFlag x b c).fb = s.fb := rfl
@[simp] theorem State.setRegFlag_key (x : RegId) (b : Byte) (c : Bool) : (s.setRegFlag x b c).key = s.key := rfl
@[simp] theorem State.setRegFlag_status (x : RegId) (b : Byte) (c : Bool) : (s.setRegFlag x b c).status = s.status := rfl
@[simp] theorem State.setRegFlag_cfg (x : RegId) (b : Byte) (c : Bool) : (s.setRegFlag x b c).cfg = s.cfg := rfl
@[simp] theorem State.setRegFlag_draws (x : RegId) (b : Byte) (c : Bool) : (s.setRegFlag x b c).draws = s.draws := rfl
@[simp] theorem State.setRegFlag_renders (x : RegId) (b : Byte) (c : Bool) : (s.setRegFlag x b c).renders = s.renders := rfl

@[simp] theorem State.setRegFlag_byteAt (x : RegId) (b : Byte) (c : Bool) (n : Nat) : (s.setRegFlag x b c).byteAt n = s.byteAt n := rfl
@[simp] theorem State.setRegFlag_npc (x : RegId) (b : Byte) (c : Bool) : (s.setRegFlag x b c).npc = s.npc := rfl
@[simp] theorem State.setRegFlag_keyDown (x : RegId) (b : Byte) (c : Bool) (j : KeyId) : (s.setRegFlag x b c).keyDown j = s.keyDown j := rfl
@[simp] theorem State.setRegFlag_fetchDecode (x : RegId) (b : Byte) (c : Bool) : (s.setRegFlag x b c).fetchDecode = s.fetchDecode :=
  State.fetchDecode_congr rfl rfl rfl

/-! ## setRegBlock -/

@[simp] theorem State.setRegBlock_mem (bs : List Byte) : (s.setRegBlock bs).mem = s.mem := rfl
@[simp] theorem State.setRegBlock_v (bs : List Byte) : (s.setRegBlock bs).v = overwriteRegs 0 s.v bs := rfl
@[simp] theorem State.setRegBlock_i (bs : List Byte) : (s.setRegBlock bs).i = s.i := rfl
@[simp] theorem State.setRegBlock_pc (bs : List Byte) : (s.setRegBlock bs).pc = s.pc := rfl
@[simp] theorem State.setRegBlock_stack (bs : List Byte) : (s.setRegBlock bs).stack = s.stack := rfl
@[simp] theorem State.setRegBlock_sp (bs : List Byte) : (s.setRegBlock bs).sp = s.sp := rfl
@[simp] theorem State.setRegBlock_dt (bs : List Byte) : (s.setRegBlock bs).dt = s.dt := rfl
@[simp] theorem State.setRegBlock_st (bs : List Byte) : (s.setRegBlock bs).st = s.st := rfl
@[simp] theorem State.setRegBlock_fb (bs : List Byte) : (s.setRegBlock bs).fb = s.fb := rfl
@[simp] theorem State.setRegBlock_key (bs : List Byte) : (s.setRegBlock bs).key = s.key := rfl
@[simp] theorem State.setRegBlock_status (bs : List Byte) : (s.setRegBlock bs).status = s.status := rfl
@[simp] theorem State.setRegBlock_cfg (bs : List Byte) : (s.setRegBlock bs).cfg = s.cfg := rfl
@[simp] theorem State.setRegBlock_draws (bs : List Byte) : (s.setRegBlock bs).draws = s.draws := rfl
@[simp] theorem State.setRegBlock_renders (bs : List Byte) : (s.setRegBlock bs).renders = s.renders := rfl

@[simp] theorem State.setRegBlock_byteAt (bs : List Byte) (n : Nat) : (s.setRegBlock bs).byteAt n = s.byteAt n := rfl
@[simp] theorem State.setRegBlock_npc (bs : List Byte) : (s.setRegBlock bs).npc = s.npc := rfl
@[simp] theorem State.setRegBlock_keyDown (bs : List Byte) (j : KeyId) : (s.setRegBlock bs).keyDown j = s.keyDown j := rfl
@[simp] theorem State.setRegBlock_fetchDecode (bs : List Byte) : (s.setRegBlock bs).fetchDecode = s.fetchDecode :=
  State.fetchDecode_congr rfl rfl rfl

/-! ## advance -/

@[simp] theorem State.advance_mem : s.advance.mem = s.mem := rfl
@[simp] theorem State.advance_v : s.advance.v = s.v := rfl
@[simp] theorem State.advance_i : s.advance.i = s.i := rfl
@[simp] theorem State.advance_pc : s.advance.pc = s.npc := rfl
@[simp] theorem State.advance_stack : s.advance.stack = s.stack := rfl
@[simp] theorem State.advance_sp : s.advance.sp = s.sp := rfl
@[simp] theorem State.advance_dt : s.advance.dt = s.dt := rfl
@[simp] theorem State.advance_st : s.advance.st = s.st := rfl
@[simp] theorem State.advance_fb : s.advance.fb = s.fb := rfl
@[simp] theorem State.advance_key : s.advance.key = s.key := rfl
@[simp] theorem State.advance_status : s.advance.status = s.status := rfl
@[simp] theorem State.advance_cfg : s.advance.cfg = s.cfg := rfl
@[simp] theorem State.advance_draws : s.advance.draws = s.draws := rfl
@[simp] theorem State.advance_renders : s.advance.renders = s.renders := rfl

@[simp] theorem State.advance_byteAt (n : Nat) : s.advance.byteAt n = s.byteAt n := rfl
@[simp] theorem State.advance_reg (r : RegId) : s.advance.reg r = s.reg r := rfl
@[simp] theorem State.advance_keyDown (j : KeyId) : s.advance.keyDown j = s.keyDown j := rfl

/-! ## skipIf -/

@[simp] theorem State.skipIf_mem (c : Bool) : (s.skipIf c).mem = s.mem := rfl
@[simp] theorem State.skipIf_v (c : Bool) : (s.skipIf c).v = s.v := rfl
@[simp] theorem State.skipIf_i (c : Bool) : (s.skipIf c).i = s.i := rfl
@[simp] theorem State.skipIf_pc (c : Bool) : (s.skipIf c).pc = if c then s.npc + 2 else s.npc := rfl
@[simp] theorem State.skipIf_stack (c : Bool) : (s.skipIf c).stack = s.stack := rfl
@[simp] theorem State.skipIf_sp (c : Bool) : (s.skipIf c).sp = s.sp := rfl
@[simp] theorem State.skipIf_dt (c : Bool) : (s.skipIf c).dt = s.dt := rfl
@[simp] theorem State.skipIf_st (c : Bool) : (s.skipIf c).st = s.st := rfl
@[simp] theorem State.skipIf_fb (c : Bool) : (s.skipIf c).fb = s.fb := rfl
@[simp] theorem State.skipIf_key (c : Bool) : (s.skipIf c).key = s.key := rfl
@[simp] theorem State.skipIf_status (c : Bool) : (s.skipIf c).status = s.status := rfl
@[simp] theorem State.skipIf_cfg (c : Bool) : (s.skipIf c).cfg = s.cfg := rfl
@[simp] theorem State.skipIf_draws (c : Bool) : (s.skipIf c).draws = s.draws := rfl
@[simp] theorem State.skipIf_renders (c : Bool) : (s.skipIf c).renders = s.renders := rfl

@[simp] theorem State.skipIf_byteAt (c : Bool) (n : Nat) : (s.skipIf c).byteAt n = s.byteAt n := rfl
@[simp] theorem State.skipIf_reg (c : Bool) (r : RegId) : (s.skipIf c).reg r = s.reg r := rfl
@[simp] theorem State.skipIf_keyDown (c : Bool) (j : KeyId) : (s.skipIf c).keyDown j = s.keyDown j := rfl

/-! ## raise -/

@[simp] theorem State.raise_mem (f : Fault) : (s.raise f).mem = s.mem := rfl
@[simp] theorem State.raise_v (f : Fault) : (s.raise f).v = s.v := rfl
@[simp] theorem State.raise_i (f : Fault) : (s.raise f).i = s.i := rfl
@[simp] theorem State.raise_pc (f : Fault) : (s.raise f).pc = s.pc := rfl
@[simp] theorem State.raise_stack (f : Fault) : (s.raise f).stack = s.stack := rfl
@[simp] theorem State.raise_sp (f : Fault) : (s.raise f).sp = s.sp := rfl
@[simp] theorem State.raise_dt (f : Fault) : (s.raise f).dt = s.dt := rfl
@[simp] theorem State.raise_st (f : Fault) : (s.raise f).st = s.st := rfl
@[simp] theorem State.raise_fb (f : Fault) : (s.raise f).fb = s.fb := rfl
@[simp] theorem State.raise_key (f : Fault) : (s.raise f).key = s.key := rfl
@[simp] theorem State.raise_status (f : Fault) : (s.raise f).status = .faulted f := rfl
@[simp] theorem State.raise_cfg (f : Fault) : (s.raise f).cfg = s.cfg := rfl
@[simp] theorem State.raise_draws (f : Fault) : (s.raise f).draws = s.draws := rfl
@[simp] theorem State.raise_renders (f : Fault) : (s.raise f).renders = s.renders := rfl

@[simp] theorem State.raise_byteAt (f : Fault) (n : Nat) : (s.raise f).byteAt n = s.byteAt n := rfl
@[simp] theorem State.raise_reg (f : Fault) (r : RegId) : (s.raise f).reg r = s.reg r := rfl
@[simp] theorem State.raise_npc (f : Fault) : (s.raise f).npc = s.npc := rfl
@[simp] theorem State.raise_keyDown (f : Fault) (j : KeyId) : (s.raise f).keyDown j = s.keyDown j := rfl
@[simp] theorem State.raise_fetchDecode (f : Fault) : (s.raise f).fetchDecode = s.fetchDecode :=
  State.fetchDecode_congr rfl rfl rfl

/-! ## ticked -/

@[simp] theorem State.ticked_mem : s.ticked.mem = s.mem := rfl
@[simp] theorem State.ticked_v : s.ticked.v = s.v := rfl
@[simp] theorem State.ticked_i : s.ticked.i = s.i := rfl
@[simp] theorem State.ticked_pc : s.ticked.pc = s.pc := rfl
@[simp] theorem State.ticked_stack : s.ticked.stack = s.stack := rfl
@[simp] theorem State.ticked_sp : s.ticked.sp = s.sp := rfl
@[simp] theorem State.ticked_dt : s.ticked.dt = countDown s.dt := rfl
@[simp] theorem State.ticked_st : s.ticked.st = countDown s.st := rfl
@[simp] theorem State.ticked_fb : s.ticked.fb = s.fb := rfl
@[simp] theorem State.ticked_key : s.ticked.key = s.key := rfl
@[simp] theorem State.ticked_status : s.ticked.status = s.status := rfl
@[simp] theorem State.ticked_cfg : s.ticked.cfg = s.cfg := rfl
@[simp] theorem State.ticked_draws : s.ticked.draws = s.draws := rfl
@[simp] theorem State.ticked_renders : s.ticked.renders = s.renders := rfl

@[simp] theorem State.ticked_byteAt (n : Nat) : s.ticked.byteAt n = s.byteAt n := rfl
@[simp] theorem State.ticked_reg (r : RegId) : s.ticked.reg r = s.reg r := rfl
@[simp] theorem State.ticked_npc : s.ticked.npc = s.npc := rfl
@[simp] theorem State.ticked_keyDown (j : KeyId) : s.ticked.keyDown j = s.keyDown j := rfl
@[simp] theorem State.ticked_fetchDecode : s.ticked.fetchDecode = s.fetchDecode :=
  State.fetchDecode_congr rfl rfl rfl

/-! ## Reading a register after writing one -/

theorem State.setReg_reg (x r : RegId) (b : Byte) :
    (s.setReg x b).reg r = if r = x then b else s.reg r := by
  simp only [State.reg, State.setReg_v, Vector.getElem_set, Fin.ext_iff, eq_comm]

@[simp] theorem State.setReg_reg_same (x : RegId) (b : Byte) : (s.setReg x b).reg x = b := by
  simp [State.setReg_reg]

/-- The flag is written last and wins (R131). -/
theorem State.setRegFlag_reg (x r : RegId) (b : Byte) (c : Bool) :
    (s.setRegFlag x b c).reg r = if r = VF then flagByte c else if r = x then b else s.reg r := by
  simp only [State.setRegFlag, State.setReg_reg]

theorem overwriteRegs_getElem (k : Nat) (v : Vector Byte 16) (bs : List Byte) (r : Nat) (h : r < 16) :
    (overwriteRegs k v bs)[r] = if r < k then v[r] else bs.getD (r - k) v[r] := by
  induction bs generalizing k v with
  | nil => simp [overwriteRegs]
  | cons b bs ih =>
    rw [overwriteRegs, ih]
    by_cases h1 : r < k
    · have h2 : r < k + 1 := by omega
      rw [if_pos h1, if_pos h2]
      split
      · exact Vector.getElem_set_ne _ _ (by omega)
      · rfl
    · by_cases h2 : r = k
      · subst h2
        simp [h]
      · have h3 : ¬ r < k + 1 := by omega
        have h4 : r - k = (r - (k + 1)) + 1 := by omega
        have h5 : ¬ k = r := fun e => h2 e.symm
        rw [if_neg h1, if_neg h3, h4]
        split <;> simp [h5]

theorem State.setRegBlock_reg (bs : List Byte) (r : RegId) :
    (s.setRegBlock bs).reg r = bs.getD r.val (s.reg r) := by
  simp [State.reg, overwriteRegs_getElem]

theorem State.setKeyLatch_keyDown (k j : KeyId) (b : Bool) :
    (s.setKeyLatch k b).keyDown j = if j = k then b else s.keyDown j := by
  simp only [State.keyDown, State.setKeyLatch_key, Vector.getElem_set, Fin.ext_iff, eq_comm]

end Sys2Proof.Machine
end

