-- ==== Sys2Proof/Laws/Memory.lean ====
section
/-! SUPPORT. Memory: every operation keeps the canonical form, and a read after a write (R52, R54, R62). -/

namespace Sys2Proof.Machine

/-! ## The list -/

theorem Memory.wfFrom_mono {cfg : Config} {lo lo' : Nat} {m : Memory} (h : lo' ≤ lo)
    (hm : Memory.wfFrom cfg lo m = true) : Memory.wfFrom cfg lo' m = true := by
  cases m with
  | nil => rfl
  | cons c m =>
    simp only [Memory.wfFrom, Bool.and_eq_true, decide_eq_true_eq] at hm ⊢
    exact ⟨⟨⟨h.trans hm.1.1.1, hm.1.1.2⟩, hm.1.2⟩, hm.2⟩

/-- An address below every listed one reads as its reset contents. -/
theorem Memory.read_of_lt {cfg : Config} {d : Byte} {a lo : Nat} {m : Memory}
    (hm : Memory.wfFrom cfg lo m = true) (h : a < lo) : Memory.read d a m = d := by
  induction m generalizing lo with
  | nil => rfl
  | cons c m ih =>
    simp only [Memory.wfFrom, Bool.and_eq_true, decide_eq_true_eq] at hm
    have : ¬ c.1 = a := by omega
    simp only [Memory.read, if_neg this]
    exact ih hm.2 (by omega)

theorem Memory.read_write_same {cfg : Config} {d : Byte} {a lo : Nat} {b : Byte} {m : Memory}
    (hm : Memory.wfFrom cfg lo m = true) : Memory.read d a (Memory.write d a b m) = b := by
  induction m generalizing lo with
  | nil => by_cases hb : b = d <;> simp [Memory.write, Memory.read, hb]
  | cons c m ih =>
    have hc := hm
    simp only [Memory.wfFrom, Bool.and_eq_true, decide_eq_true_eq] at hc
    by_cases h1 : a < c.1
    · by_cases hb : b = d
      · have h2 : ¬ c.1 = a := by omega
        simp only [Memory.write, if_pos h1, if_pos hb, Memory.read, if_neg h2]
        exact (Memory.read_of_lt hc.2 (by omega)).trans hb.symm
      · simp [Memory.write, h1, hb, Memory.read]
    · by_cases h2 : c.1 = a
      · by_cases hb : b = d
        · simp only [Memory.write, if_neg h1, if_pos h2, if_pos hb]
          exact (Memory.read_of_lt hc.2 (by omega)).trans hb.symm
        · simp [Memory.write, h2, hb, Memory.read]
      · simp only [Memory.write, if_neg h1, if_neg h2, Memory.read]
        exact ih hc.2

theorem Memory.read_write_ne {d d' : Byte} {a n : Nat} {b : Byte} {m : Memory} (h : n ≠ a) :
    Memory.read d' n (Memory.write d a b m) = Memory.read d' n m := by
  have h' : ¬ a = n := fun e => h e.symm
  induction m with
  | nil => by_cases hb : b = d <;> simp [Memory.write, Memory.read, hb, h']
  | cons c m ih =>
    by_cases h1 : a < c.1
    · by_cases hb : b = d <;> simp [Memory.write, h1, hb, Memory.read, h']
    · by_cases h2 : c.1 = a
      · by_cases hb : b = d <;> simp [Memory.write, h2, hb, Memory.read, h']
      · simp [Memory.write, h1, h2, Memory.read, ih]

theorem Memory.write_wfFrom {cfg : Config} {a lo : Nat} {b : Byte} {m : Memory}
    (hm : Memory.wfFrom cfg lo m = true) (hlo : lo ≤ a) (ha : a < memSize) :
    Memory.wfFrom cfg lo (Memory.write (resetByte cfg a) a b m) = true := by
  induction m generalizing lo with
  | nil =>
    by_cases hb : b = resetByte cfg a
    · simp [Memory.write, hb, Memory.wfFrom]
    · simp only [Memory.write, if_neg hb, Memory.wfFrom, Bool.and_eq_true, decide_eq_true_eq]
      exact ⟨⟨⟨hlo, ha⟩, hb⟩, trivial⟩
  | cons c m ih =>
    have hc := hm
    simp only [Memory.wfFrom, Bool.and_eq_true, decide_eq_true_eq] at hc
    by_cases h1 : a < c.1
    · by_cases hb : b = resetByte cfg a
      · simpa [Memory.write, h1, hb] using hm
      · simp only [Memory.write, if_pos h1, if_neg hb, Memory.wfFrom, Bool.and_eq_true,
          decide_eq_true_eq]
        exact ⟨⟨⟨hlo, ha⟩, hb⟩, ⟨⟨h1, hc.1.1.2⟩, hc.1.2⟩, hc.2⟩
    · by_cases h2 : c.1 = a
      · by_cases hb : b = resetByte cfg a
        · simp only [Memory.write, if_neg h1, if_pos h2, if_pos hb]
          exact Memory.wfFrom_mono (by omega) hc.2
        · simp only [Memory.write, if_neg h1, if_pos h2, if_neg hb, Memory.wfFrom, Bool.and_eq_true,
            decide_eq_true_eq]
          exact ⟨⟨⟨hlo, ha⟩, hb⟩, h2 ▸ hc.2⟩
      · simp only [Memory.write, if_neg h1, if_neg h2, Memory.wfFrom, Bool.and_eq_true,
          decide_eq_true_eq]
        exact ⟨hc.1, ih hc.2 (by omega)⟩

/-! ## The state -/

theorem State.putByte_wf {s : State} {a : Nat} {b : Byte} (hs : Memory.wf s.cfg s.mem = true)
    (ha : a < memSize) : Memory.wf (s.putByte a b).cfg (s.putByte a b).mem = true :=
  Memory.write_wfFrom hs (Nat.zero_le a) ha

theorem State.byteAt_putByte {s : State} {a : Nat} {b : Byte} (hs : Memory.wf s.cfg s.mem = true)
    (n : Nat) : (s.putByte a b).byteAt n = if n = a then b else s.byteAt n := by
  by_cases h : n = a
  · subst h
    simpa [State.byteAt] using Memory.read_write_same hs
  · simpa [State.byteAt, h] using Memory.read_write_ne h

/-- A store to one address leaves every other address alone, whatever the form of memory. -/
theorem State.byteAt_putByte_ne (s : State) {a n : Nat} (b : Byte) (h : n ≠ a) :
    (s.putByte a b).byteAt n = s.byteAt n := by
  simpa [State.byteAt] using Memory.read_write_ne h

/-- Storing bytes changes the memory field only. -/
theorem State.putBytes_eq (s : State) (a : Nat) (bs : List Byte) :
    s.putBytes a bs = { s with mem := (s.putBytes a bs).mem } := by
  induction bs generalizing s a with
  | nil => rfl
  | cons b bs ih =>
    simp only [State.putBytes]
    conv_lhs => rw [ih]
    rfl

section
variable (s : State) (a : Nat) (bs : List Byte)

@[simp] theorem State.putBytes_v : (s.putBytes a bs).v = s.v := by rw [State.putBytes_eq]
@[simp] theorem State.putBytes_i : (s.putBytes a bs).i = s.i := by rw [State.putBytes_eq]
@[simp] theorem State.putBytes_pc : (s.putBytes a bs).pc = s.pc := by rw [State.putBytes_eq]
@[simp] theorem State.putBytes_stack : (s.putBytes a bs).stack = s.stack := by rw [State.putBytes_eq]
@[simp] theorem State.putBytes_sp : (s.putBytes a bs).sp = s.sp := by rw [State.putBytes_eq]
@[simp] theorem State.putBytes_dt : (s.putBytes a bs).dt = s.dt := by rw [State.putBytes_eq]
@[simp] theorem State.putBytes_st : (s.putBytes a bs).st = s.st := by rw [State.putBytes_eq]
@[simp] theorem State.putBytes_fb : (s.putBytes a bs).fb = s.fb := by rw [State.putBytes_eq]
@[simp] theorem State.putBytes_key : (s.putBytes a bs).key = s.key := by rw [State.putBytes_eq]
@[simp] theorem State.putBytes_status : (s.putBytes a bs).status = s.status := by rw [State.putBytes_eq]
@[simp] theorem State.putBytes_cfg : (s.putBytes a bs).cfg = s.cfg := by rw [State.putBytes_eq]
@[simp] theorem State.putBytes_draws : (s.putBytes a bs).draws = s.draws := by rw [State.putBytes_eq]
@[simp] theorem State.putBytes_renders : (s.putBytes a bs).renders = s.renders := by
  rw [State.putBytes_eq]

end

theorem State.putBytes_wf {s : State} {a : Nat} {bs : List Byte}
    (hs : Memory.wf s.cfg s.mem = true) (h : a + bs.length ≤ memSize) :
    Memory.wf (s.putBytes a bs).cfg (s.putBytes a bs).mem = true := by
  induction bs generalizing s a with
  | nil => exact hs
  | cons b bs ih =>
    simp only [List.length_cons] at h
    exact ih (State.putByte_wf hs (by omega)) (by omega)

/-- An address outside the stored bytes reads as before. -/
theorem State.byteAt_putBytes_out (s : State) {a n : Nat} {bs : List Byte}
    (h : n < a ∨ a + bs.length ≤ n) : (s.putBytes a bs).byteAt n = s.byteAt n := by
  induction bs generalizing s a with
  | nil => rfl
  | cons b bs ih =>
    simp only [List.length_cons] at h
    simp only [State.putBytes]
    rw [ih _ (by omega), State.byteAt_putByte_ne _ _ (by omega)]

/-- An address among the stored bytes reads as the byte stored there. -/
theorem State.byteAt_putBytes_in {s : State} {a : Nat} {bs : List Byte}
    (hs : Memory.wf s.cfg s.mem = true) (h : a + bs.length ≤ memSize) {k : Nat} (hk : k < bs.length) :
    (s.putBytes a bs).byteAt (a + k) = bs[k] := by
  induction bs generalizing s a k with
  | nil => simp at hk
  | cons b bs ih =>
    simp only [List.length_cons] at h hk
    have hw := State.putByte_wf (b := b) hs (show a < memSize by omega)
    cases k with
    | zero =>
      simp only [State.putBytes]
      rw [State.byteAt_putBytes_out _ (by omega), State.byteAt_putByte hs]
      simp
    | succ k =>
      have := ih hw (a := a + 1) (by omega) (k := k) (by omega)
      simpa [State.putBytes, Nat.add_assoc, Nat.add_comm 1 k] using this

theorem State.bytesAt_length (s : State) (a n : Nat) : (s.bytesAt a n).length = n := by
  simp [State.bytesAt]

theorem State.bytesAt_getElem (s : State) (a n k : Nat) (h : k < (s.bytesAt a n).length) :
    (s.bytesAt a n)[k] = s.byteAt (a + k) := by
  simp [State.bytesAt]

/-- Reset memory is in canonical form. -/
theorem State.resetWith_memory_wf (cfg : Config) :
    Memory.wf cfg (State.resetWith cfg).mem = true := rfl

/-- After reset memory reads as its reset contents (R39). -/
theorem State.resetWith_byteAt (cfg : Config) (a : Nat) :
    (State.resetWith cfg).byteAt a = resetByte cfg a := rfl

end Sys2Proof.Machine
end

