-- ==== Sys2Proof/Laws/Ops.lean ====
section
/-! SUPPORT. One lemma per shared operation that says what it can do; provers cite these instead of unfolding. -/

namespace Sys2Proof.Machine

/-! ## Legal configurations (R60, R244) -/

theorem config_wf_iff {cfg : Config} : cfg.wf = true ↔ cfg.fontBase.toNat + fontBytes ≤ loadBase := by
  simp [Config.wf]

/-- Every font byte of a legal configuration lies below the program. -/
theorem font_lt_loadBase {cfg : Config} (h : cfg.wf = true) (k : Fin 80) :
    cfg.fontBase.toNat + k.val < loadBase :=
  Nat.lt_of_lt_of_le (Nat.add_lt_add_left k.isLt _) (config_wf_iff.1 h)

/-! ## Register values and numbers -/

theorem State.v_getElem (s : State) (k : Nat) (h : k < 16) : s.v[k] = s.reg ⟨k, h⟩ := rfl

theorem flagByte_toNat (b : Bool) : (flagByte b).toNat = if b then 1 else 0 := by
  cases b <;> rfl

theorem indexOf_of_lt {a : Byte} (h : a.toNat < 16) : indexOf a = some ⟨a.toNat, h⟩ := by
  simp [indexOf, h]

theorem indexOf_of_ge {a : Byte} (h : 15 < a.toNat) : indexOf a = none := by
  simp only [indexOf]
  split
  · omega
  · rfl

@[simp] theorem addressOf_toNat (nnn : BitVec 12) : (addressOf nnn).toNat = nnn.toNat := by
  simp only [addressOf, BitVec.toNat_setWidth]
  omega

@[simp] theorem widen_toNat (a : Byte) : (widen a).toNat = a.toNat := by
  simp only [widen, BitVec.toNat_setWidth]
  omega

theorem State.npc_toNat {s : State} (h : s.pc.toNat + 1 < memSize) :
    s.npc.toNat = s.pc.toNat + 2 := by
  simp only [memSize] at h
  simp only [State.npc, BitVec.toNat_add, show (2 : Word).toNat = 2 from rfl]
  omega

@[simp] theorem decimalDigits_length (a : Byte) : (decimalDigits a).length = 3 := rfl

@[simp] theorem State.regBlock_length (s : State) (x : RegId) : (s.regBlock x).length = x.val + 1 := by
  have := x.isLt
  simp [State.regBlock]

theorem State.regBlock_getElem (s : State) (x : RegId) (k : Nat) (h : k < (s.regBlock x).length) :
    (s.regBlock x)[k] = s.reg ⟨k, by have := x.isLt; simp at h; omega⟩ := by
  simp [State.regBlock, State.reg]

/-! ## The lowest pressed key (R171) -/

theorem State.lowestKey_eq_none {s : State} : s.lowestKey = none ↔ ∀ k, s.keyDown k = false := by
  simp [State.lowestKey]

theorem State.lowestKey_eq_some {s : State} {k : KeyId} :
    s.lowestKey = some k ↔ s.keyDown k = true ∧ ∀ j, j < k → s.keyDown j = false := by
  simp only [State.lowestKey, List.find?_eq_some_iff_getElem]
  constructor
  · rintro ⟨hk, i, hi, he, hj⟩
    simp only [List.getElem_finRange] at he hj
    refine ⟨hk, fun j hjk => ?_⟩
    have h1 : j.val < i := by subst he; exact hjk
    simpa using hj j.val h1
  · rintro ⟨hk, hj⟩
    refine ⟨hk, k.val, by simp, by simp, fun j hjk => ?_⟩
    have := hj ⟨j, by have := k.isLt; omega⟩ hjk
    simpa using this

/-! ## Block accesses (R59) -/

/-- All `n` addresses of an access from `a` exist. -/
theorem blockFault_eq_none {a n : Nat} : blockFault a n = none ↔ n = 0 ∨ a + n ≤ memSize := by
  simp only [blockFault]
  split <;> simp <;> omega

theorem blockFault_eq_some {a n : Nat} {f : Fault} :
    blockFault a n = some f ↔ 0 < n ∧ memSize < a + n ∧ f = .memoryOutOfBounds (max a memSize) := by
  simp only [blockFault]
  split <;> simp_all [eq_comm]

theorem State.loadBlock_of_fits {s : State} {n : Nat} (h : n = 0 ∨ s.i.toNat + n ≤ memSize) :
    s.loadBlock n = .ok (s.bytesAt s.i.toNat n) := by
  have : blockFault (s.dataAddress 0) n = none := blockFault_eq_none.2 h
  simp only [State.loadBlock, this]
  rfl

theorem State.loadBlock_of_not_fits {s : State} {n : Nat} (h0 : 0 < n) (h : memSize < s.i.toNat + n) :
    s.loadBlock n = .error (.memoryOutOfBounds (max s.i.toNat memSize)) := by
  have : blockFault (s.dataAddress 0) n = some (.memoryOutOfBounds (max s.i.toNat memSize)) :=
    blockFault_eq_some.2 ⟨h0, h, rfl⟩
  simp only [State.loadBlock, this]

theorem State.storeBlock_of_fits {s : State} {bs : List Byte}
    (h : bs.length = 0 ∨ s.i.toNat + bs.length ≤ memSize) :
    s.storeBlock bs = .ok (s.putBytes s.i.toNat bs) := by
  have : blockFault (s.dataAddress 0) bs.length = none := blockFault_eq_none.2 h
  simp only [State.storeBlock, this]
  rfl

theorem State.storeBlock_of_not_fits {s : State} {bs : List Byte} (h0 : 0 < bs.length)
    (h : memSize < s.i.toNat + bs.length) :
    s.storeBlock bs = .error (.memoryOutOfBounds (max s.i.toNat memSize)) := by
  have : blockFault (s.dataAddress 0) bs.length =
      some (.memoryOutOfBounds (max s.i.toNat memSize)) := blockFault_eq_some.2 ⟨h0, h, rfl⟩
  simp only [State.storeBlock, this]

/-! ## The stack (R29) -/

theorem State.push_of_lt {s : State} {w : Word} (h : s.sp.val < 16) :
    s.push w = some { s with stack := s.stack.set s.sp.val w, sp := ⟨s.sp.val + 1, by omega⟩ } := by
  simp [State.push, h]

theorem State.push_of_full {s : State} {w : Word} (h : s.sp.val = 16) : s.push w = none := by
  simp [State.push, h]

theorem State.pop_of_pos {s : State} (h : 0 < s.sp.val) :
    s.pop = some (s.stack[s.sp.val - 1]'(by omega), { s with sp := ⟨s.sp.val - 1, by omega⟩ }) := by
  simp [State.pop, h]

theorem State.pop_of_empty {s : State} (h : s.sp.val = 0) : s.pop = none := by
  simp [State.pop, h]

/-! ## Fetch and decode (R53, R75) -/

theorem State.readWord_of_fits {s : State} {a : Nat} (h : a + 1 < memSize) :
    s.readWord a = .ok (bigEndian (s.byteAt a) (s.byteAt (a + 1))) := by
  simp only [State.readWord]
  rw [if_neg (by omega), if_neg (by omega)]

/-- The word at `PC`, as the fetch assembles it (R55, R70). -/
def State.wordAtPc (s : State) : Word := bigEndian (s.byteAt s.pc.toNat) (s.byteAt (s.pc.toNat + 1))

theorem State.fetchDecode_eq_ok {s : State} {i : Instr} :
    s.fetchDecode = .ok i ↔ s.pc.toNat + 1 < memSize ∧ decode s.cfg s.wordAtPc = .instr i := by
  by_cases h : s.pc.toNat + 1 < memSize
  · simp only [State.fetchDecode, State.readWord_of_fits h, State.wordAtPc]
    split <;> simp_all
  · simp only [State.fetchDecode, State.readWord]
    split
    · simp [h]
    · rename_i w hw
      split at hw
      · cases hw
      · split at hw
        · cases hw
        · omega

theorem State.fetchDecode_eq_error {s : State} {f : Fault} :
    s.fetchDecode = .error f ↔
      (memSize ≤ s.pc.toNat + 1 ∧ f = .memoryOutOfBounds (max s.pc.toNat memSize)) ∨
      (s.pc.toNat + 1 < memSize ∧ ∃ u, decode s.cfg s.wordAtPc = .unknownOpcode u ∧
        f = .unknownOpcode u) := by
  by_cases h : s.pc.toNat + 1 < memSize
  · have h' : ¬ memSize ≤ s.pc.toNat + 1 := by omega
    have hw : s.readWord s.pc.toNat = .ok s.wordAtPc := State.readWord_of_fits h
    simp only [State.fetchDecode, hw]
    cases decode s.cfg s.wordAtPc <;> simp [h, h', eq_comm]
  · have h' : memSize ≤ s.pc.toNat + 1 := by omega
    by_cases h2 : memSize ≤ s.pc.toNat
    · have hm : max s.pc.toNat memSize = s.pc.toNat := Nat.max_eq_left h2
      simp only [State.fetchDecode, State.readWord, if_pos h2, hm, h, h', Except.error.injEq,
        false_and, or_false, true_and, eq_comm]
    · have hm : max s.pc.toNat memSize = s.pc.toNat + 1 := by
        rw [Nat.max_eq_right (by omega)]; omega
      have hw : s.readWord s.pc.toNat = .error (.memoryOutOfBounds (s.pc.toNat + 1)) := by
        simp only [State.readWord, if_neg h2, if_pos h']
      simp only [State.fetchDecode, hw, hm, h, h', Except.error.injEq, false_and, or_false, true_and,
        eq_comm]

/-! ## The optional updates (R141, R176, R177) -/

theorem State.advanceI_eq (s : State) (n : Nat) :
    s.advanceI n =
      { s with i := if s.cfg.loadStoreIncrementsI then s.i + BitVec.ofNat 16 n else s.i } := by
  simp only [State.advanceI]
  split <;> rfl

theorem State.flagIfEnabled_eq (s : State) (c : Bool) :
    s.flagIfEnabled c =
      { s with v := if s.cfg.fx1eOverflowFlag then s.v.set 15 (flagByte c) else s.v } := by
  simp only [State.flagIfEnabled]
  split <;> rfl

/-! ## Operations that may fault -/

/-- What an operation that may fault answers: the fault taken, or its continuation. -/
theorem orFault_eq_next {α : Type} {s t : State} {r : Except Fault α} {k : α → Result} :
    orFault s r k = .next t ↔ (∃ f, r = .error f ∧ t = s.raise f) ∨ ∃ a, r = .ok a ∧ k a = .next t := by
  cases r <;> simp [orFault, takeFault, eq_comm]

@[simp] theorem orFault_error {α : Type} (s : State) (f : Fault) (k : α → Result) :
    orFault s (.error f) k = .next (s.raise f) := rfl

@[simp] theorem orFault_ok {α : Type} (s : State) (a : α) (k : α → Result) :
    orFault s (.ok a) k = k a := rfl

@[simp] theorem complete_eq (s : State) : complete s = .next s.advance := rfl

@[simp] theorem takeFault_eq (f : Fault) (s : State) : takeFault f s = .next (s.raise f) := rfl

end Sys2Proof.Machine
end

