-- ==== Sys2Proof/Laws/Draw.lean ====
section
/-! SUPPORT. The rasteriser pixel by pixel: what the loops of R153 leave in the grid, and when they report a
collision. -/

namespace Sys2Proof.Machine

theorem pixelAt_of_lt (fb : Framebuffer) {px py : Nat} (hx : px < 64) (hy : py < 32) :
    pixelAt fb px py = fb[py][px] := by
  simp [pixelAt, hx, hy]

theorem pixelAt_eq_true {fb : Framebuffer} {px py : Nat} (h : pixelAt fb px py = true) :
    px < 64 ∧ py < 32 := by
  by_contra hn
  simp [pixelAt, hn] at h

/-- Two grids with the same pixels are the same grid. -/
theorem framebuffer_ext {a b : Framebuffer} (h : ∀ px py, pixelAt a px py = pixelAt b px py) :
    a = b := by
  apply Vector.ext
  intro y hy
  apply Vector.ext
  intro x hx
  have := h x y
  rwa [pixelAt_of_lt a hx hy, pixelAt_of_lt b hx hy] at this

/-- The grid has this pixel. -/
def inGrid (px py : Nat) : Bool := decide (px < 64 ∧ py < 32)

theorem pixelAt_drawPixel (cx cy : Nat) (bit : Bool) (acc : Framebuffer × Bool) (px py : Nat) :
    pixelAt (drawPixel cx cy bit acc).1 px py =
      (pixelAt acc.1 px py ^^ (inGrid px py && decide (px = cx ∧ py = cy) && bit)) := by
  by_cases hc : cx < 64 ∧ cy < 32
  · by_cases hp : px < 64 ∧ py < 32
    · simp only [drawPixel, dif_pos hc, pixelAt, dif_pos hp, inGrid, decide_eq_true hp]
      by_cases hy : cy = py
      · subst hy
        by_cases hx : cx = px
        · subst hx; simp
        · have : ¬ px = cx := fun e => hx e.symm
          simp [hx, this]
      · have : ¬ py = cy := fun e => hy e.symm
        simp [hy, this]
    · simp [pixelAt, hp, inGrid]
  · have hg : (inGrid px py && decide (px = cx ∧ py = cy)) = false := by
      simp only [inGrid, Bool.and_eq_false_iff, decide_eq_false_iff_not]
      omega
    simp only [drawPixel, dif_neg hc, hg, Bool.false_and, Bool.xor_false]

theorem drawPixel_hit (cx cy : Nat) (bit : Bool) (acc : Framebuffer × Bool) :
    (drawPixel cx cy bit acc).2 = (acc.2 || (pixelAt acc.1 cx cy && bit)) := by
  by_cases hc : cx < 64 ∧ cy < 32
  · simp only [drawPixel, dif_pos hc, pixelAt]
    cases (acc.1[cy]'hc.2)[cx]'hc.1 <;> cases bit <;> simp
  · simp [drawPixel, pixelAt, hc]

/-- The first `n` columns of a row. -/
def drawColumns (x0 y : Nat) (b : Byte) (n : Nat) (acc : Framebuffer × Bool) : Framebuffer × Bool :=
  (List.range n).foldl (fun acc c => drawPixel (x0 + c) y (spriteBit b c) acc) acc

theorem drawColumns_succ (x0 y : Nat) (b : Byte) (n : Nat) (acc : Framebuffer × Bool) :
    drawColumns x0 y b (n + 1) acc =
      drawPixel (x0 + n) y (spriteBit b n) (drawColumns x0 y b n acc) := by
  simp [drawColumns, List.range_succ]

theorem pixelAt_drawColumns (x0 y : Nat) (b : Byte) (n : Nat) (acc : Framebuffer × Bool)
    (px py : Nat) :
    pixelAt (drawColumns x0 y b n acc).1 px py =
      (pixelAt acc.1 px py ^^
        (inGrid px py && decide (x0 ≤ px ∧ px < x0 + n ∧ py = y) && spriteBit b (px - x0))) := by
  induction n with
  | zero =>
    have : ¬ (x0 ≤ px ∧ px < x0 + 0 ∧ py = y) := by omega
    simp only [drawColumns, List.range_zero, List.foldl_nil, decide_eq_false this, Bool.and_false,
      Bool.false_and, Bool.xor_false]
  | succ n ih =>
    rw [drawColumns_succ, pixelAt_drawPixel, ih, Bool.xor_assoc]
    congr 1
    by_cases hx : px = x0 + n
    · subst hx
      have h1 : ¬ (x0 ≤ x0 + n ∧ x0 + n < x0 + n ∧ py = y) := by omega
      by_cases hy : py = y
      · subst hy
        simp
      · simp [hy]
    · have h1 : ¬ (px = x0 + n ∧ py = y) := by omega
      have h2 : (x0 ≤ px ∧ px < x0 + (n + 1) ∧ py = y) ↔ (x0 ≤ px ∧ px < x0 + n ∧ py = y) := by omega
      simp only [decide_eq_false h1, h2, Bool.and_false, Bool.false_and, Bool.xor_false]

theorem drawColumns_hit (x0 y : Nat) (b : Byte) (n : Nat) (acc : Framebuffer × Bool) :
    (drawColumns x0 y b n acc).2 = true ↔
      acc.2 = true ∨ ∃ c < n, pixelAt acc.1 (x0 + c) y = true ∧ spriteBit b c = true := by
  induction n with
  | zero => simp [drawColumns]
  | succ n ih =>
    have hp : pixelAt (drawColumns x0 y b n acc).1 (x0 + n) y = pixelAt acc.1 (x0 + n) y := by
      have h1 : ¬ (x0 ≤ x0 + n ∧ x0 + n < x0 + n ∧ y = y) := by omega
      rw [pixelAt_drawColumns, decide_eq_false h1]
      simp
    rw [drawColumns_succ, drawPixel_hit, hp]
    simp only [Bool.or_eq_true, Bool.and_eq_true, ih, Nat.lt_succ_iff_lt_or_eq]
    constructor
    · rintro ((h | ⟨c, hc, h⟩) | h)
      · exact .inl h
      · exact .inr ⟨c, .inl hc, h⟩
      · exact .inr ⟨n, .inr rfl, h⟩
    · rintro (h | ⟨c, hc | rfl, h⟩)
      · exact .inl (.inl h)
      · exact .inl (.inr ⟨c, hc, h⟩)
      · exact .inr h

theorem drawRow_eq (x0 y : Nat) (b : Byte) (acc : Framebuffer × Bool) :
    drawRow x0 y b acc = drawColumns x0 y b 8 acc := rfl

theorem pixelAt_drawRows (x0 : Nat) (bs : List Byte) (y0 : Nat) (acc : Framebuffer × Bool)
    (px py : Nat) :
    pixelAt (drawRows x0 y0 bs acc).1 px py =
      (pixelAt acc.1 px py ^^ (inGrid px py && spriteAt bs x0 y0 px py)) := by
  induction bs generalizing y0 acc with
  | nil => simp [drawRows, spriteAt, spriteBit]
  | cons b bs ih =>
    rw [drawRows, ih, drawRow_eq, pixelAt_drawColumns, Bool.xor_assoc]
    congr 1
    simp only [spriteAt]
    by_cases hx : x0 ≤ px ∧ px < x0 + 8
    · by_cases hy : py = y0
      · subst hy
        have : ¬ (py + 1 ≤ py) := by omega
        simp [hx]
      · by_cases hy2 : y0 + 1 ≤ py
        · have h1 : py - y0 = (py - (y0 + 1)) + 1 := by omega
          have h2 : y0 ≤ py := by omega
          simp [hx, hy, hy2, h2, h1]
        · have h2 : ¬ y0 ≤ py := by omega
          simp [hy, hy2, h2]
    · have h1 : ∀ q : Prop, ¬ (x0 ≤ px ∧ px < x0 + 8 ∧ q) := fun q h => hx ⟨h.1, h.2.1⟩
      simp [h1]

theorem drawRows_hit (x0 : Nat) (bs : List Byte) (y0 : Nat) (acc : Framebuffer × Bool) :
    (drawRows x0 y0 bs acc).2 = true ↔
      acc.2 = true ∨ ∃ px py, pixelAt acc.1 px py = true ∧ spriteAt bs x0 y0 px py = true := by
  induction bs generalizing y0 acc with
  | nil => simp [drawRows, spriteAt, spriteBit]
  | cons b bs ih =>
    rw [drawRows, ih, drawRow_eq, drawColumns_hit]
    have hrow : ∀ px py, spriteAt (b :: bs) x0 y0 px py =
        if py = y0 then decide (x0 ≤ px ∧ px < x0 + 8) && spriteBit b (px - x0)
        else spriteAt bs x0 (y0 + 1) px py := by
      intro px py
      simp only [spriteAt]
      by_cases hy : py = y0
      · subst hy; simp
      · by_cases hy2 : y0 + 1 ≤ py
        · have h1 : py - y0 = (py - (y0 + 1)) + 1 := by omega
          have h2 : y0 ≤ py := by omega
          simp [hy, hy2, h2, h1]
        · have h2 : ¬ y0 ≤ py := by omega
          simp [hy, hy2, h2]
    have hbelow : ∀ px py, spriteAt bs x0 (y0 + 1) px py = true → py ≠ y0 := by
      intro px py h
      simp only [spriteAt, Bool.and_eq_true, decide_eq_true_eq] at h
      omega
    constructor
    · rintro ((h | ⟨c, hc, h1, h2⟩) | ⟨px, py, h1, h2⟩)
      · exact .inl h
      · refine .inr ⟨x0 + c, y0, h1, ?_⟩
        rw [hrow, if_pos rfl]
        simp [h2, hc]
      · have hne := hbelow _ _ h2
        refine .inr ⟨px, py, ?_, ?_⟩
        · rw [pixelAt_drawColumns] at h1
          have : ¬ (x0 ≤ px ∧ px < x0 + 8 ∧ py = y0) := fun h => hne h.2.2
          simpa [this] using h1
        · rw [hrow, if_neg hne]
          exact h2
    · rintro (h | ⟨px, py, h1, h2⟩)
      · exact .inl (.inl h)
      · rw [hrow] at h2
        by_cases hy : py = y0
        · subst hy
          rw [if_pos rfl] at h2
          simp only [Bool.and_eq_true, decide_eq_true_eq] at h2
          refine .inl (.inr ⟨px - x0, by omega, ?_, h2.2⟩)
          rwa [show x0 + (px - x0) = px by omega]
        · rw [if_neg hy] at h2
          refine .inr ⟨px, py, ?_, h2⟩
          rw [pixelAt_drawColumns]
          have : ¬ (x0 ≤ px ∧ px < x0 + 8 ∧ py = y0) := fun h => hy h.2.2
          simpa [this] using h1

/-- The new grid: inside it, the old pixel XOR the sprite's bit there. -/
theorem pixelAt_raster (fb : Framebuffer) (x0 y0 : Nat) (bs : List Byte) (px py : Nat) :
    pixelAt (raster fb x0 y0 bs).1 px py =
      (pixelAt fb px py ^^ (inGrid px py && spriteAt bs x0 y0 px py)) :=
  pixelAt_drawRows x0 bs y0 (fb, false) px py

/-- A collision: some 1 bit of the sprite lands on a set pixel (R154). -/
theorem raster_hit (fb : Framebuffer) (x0 y0 : Nat) (bs : List Byte) :
    (raster fb x0 y0 bs).2 = true ↔
      ∃ px py, pixelAt fb px py = true ∧ spriteAt bs x0 y0 px py = true := by
  simp [raster, drawRows_hit]

end Sys2Proof.Machine
end

