-- ==== Sys2Proof/Laws/PerInstr.lean ====
section
/-! SUPPORT. Facts of every instruction as syntax, one lemma per constructor: its word has the literal digits of
its pattern in the opcode map (R85). -/

namespace Sys2Proof.Laws.EncodesPattern

/-- The literal digits of the pattern of each instruction (R85), in the word it encodes to. -/
def Statement (i : Instr) : Prop :=
  match i with
  | .cls => encode i = 0x00E0
  | .ret => encode i = 0x00EE
  | .jp _ => opField (encode i) = 1
  | .call _ => opField (encode i) = 2
  | .seImm _ _ => opField (encode i) = 3
  | .sneImm _ _ => opField (encode i) = 4
  | .seReg _ _ => opField (encode i) = 5 ∧ nField (encode i) = 0
  | .ldImm _ _ => opField (encode i) = 6
  | .addImm _ _ => opField (encode i) = 7
  | .ldReg _ _ => opField (encode i) = 8 ∧ nField (encode i) = 0
  | .orReg _ _ => opField (encode i) = 8 ∧ nField (encode i) = 1
  | .andReg _ _ => opField (encode i) = 8 ∧ nField (encode i) = 2
  | .xorReg _ _ => opField (encode i) = 8 ∧ nField (encode i) = 3
  | .addReg _ _ => opField (encode i) = 8 ∧ nField (encode i) = 4
  | .subReg _ _ => opField (encode i) = 8 ∧ nField (encode i) = 5
  | .shr _ _ => opField (encode i) = 8 ∧ nField (encode i) = 6
  | .subn _ _ => opField (encode i) = 8 ∧ nField (encode i) = 7
  | .shl _ _ => opField (encode i) = 8 ∧ nField (encode i) = 0xE
  | .sneReg _ _ => opField (encode i) = 9 ∧ nField (encode i) = 0
  | .ldI _ => opField (encode i) = 0xA
  | .jpV0 _ => opField (encode i) = 0xB
  | .rnd _ _ => opField (encode i) = 0xC
  | .drw _ _ _ => opField (encode i) = 0xD
  | .skp _ => opField (encode i) = 0xE ∧ nnField (encode i) = 0x9E
  | .sknp _ => opField (encode i) = 0xE ∧ nnField (encode i) = 0xA1
  | .ldVxDt _ => opField (encode i) = 0xF ∧ nnField (encode i) = 0x07
  | .ldVxK _ => opField (encode i) = 0xF ∧ nnField (encode i) = 0x0A
  | .ldDtVx _ => opField (encode i) = 0xF ∧ nnField (encode i) = 0x15
  | .ldStVx _ => opField (encode i) = 0xF ∧ nnField (encode i) = 0x18
  | .addI _ => opField (encode i) = 0xF ∧ nnField (encode i) = 0x1E
  | .ldF _ => opField (encode i) = 0xF ∧ nnField (encode i) = 0x29
  | .ldB _ => opField (encode i) = 0xF ∧ nnField (encode i) = 0x33
  | .ldMemVx _ => opField (encode i) = 0xF ∧ nnField (encode i) = 0x55
  | .ldVxMem _ => opField (encode i) = 0xF ∧ nnField (encode i) = 0x65

theorem cls : Statement .cls := rfl

theorem ret : Statement .ret := rfl

theorem jp (nnn : BitVec 12) : Statement (.jp nnn) := by simp [Statement, encode]

theorem call (nnn : BitVec 12) : Statement (.call nnn) := by simp [Statement, encode]

theorem seImm (x : RegId) (nn : Byte) : Statement (.seImm x nn) := by simp [Statement, encode]

theorem sneImm (x : RegId) (nn : Byte) : Statement (.sneImm x nn) := by simp [Statement, encode]

theorem seReg (x y : RegId) : Statement (.seReg x y) := by simp [Statement, encode]

theorem ldImm (x : RegId) (nn : Byte) : Statement (.ldImm x nn) := by simp [Statement, encode]

theorem addImm (x : RegId) (nn : Byte) : Statement (.addImm x nn) := by simp [Statement, encode]

theorem ldReg (x y : RegId) : Statement (.ldReg x y) := by simp [Statement, encode]

theorem orReg (x y : RegId) : Statement (.orReg x y) := by simp [Statement, encode]

theorem andReg (x y : RegId) : Statement (.andReg x y) := by simp [Statement, encode]

theorem xorReg (x y : RegId) : Statement (.xorReg x y) := by simp [Statement, encode]

theorem addReg (x y : RegId) : Statement (.addReg x y) := by simp [Statement, encode]

theorem subReg (x y : RegId) : Statement (.subReg x y) := by simp [Statement, encode]

theorem shr (x y : RegId) : Statement (.shr x y) := by simp [Statement, encode]

theorem subn (x y : RegId) : Statement (.subn x y) := by simp [Statement, encode]

theorem shl (x y : RegId) : Statement (.shl x y) := by simp [Statement, encode]

theorem sneReg (x y : RegId) : Statement (.sneReg x y) := by simp [Statement, encode]

theorem ldI (nnn : BitVec 12) : Statement (.ldI nnn) := by simp [Statement, encode]

theorem jpV0 (nnn : BitVec 12) : Statement (.jpV0 nnn) := by simp [Statement, encode]

theorem rnd (x : RegId) (nn : Byte) : Statement (.rnd x nn) := by simp [Statement, encode]

theorem drw (x y : RegId) (n : BitVec 4) : Statement (.drw x y n) := by simp [Statement, encode]

theorem skp (x : RegId) : Statement (.skp x) := by simp [Statement, encode]

theorem sknp (x : RegId) : Statement (.sknp x) := by simp [Statement, encode]

theorem ldVxDt (x : RegId) : Statement (.ldVxDt x) := by simp [Statement, encode]

theorem ldVxK (x : RegId) : Statement (.ldVxK x) := by simp [Statement, encode]

theorem ldDtVx (x : RegId) : Statement (.ldDtVx x) := by simp [Statement, encode]

theorem ldStVx (x : RegId) : Statement (.ldStVx x) := by simp [Statement, encode]

theorem addI (x : RegId) : Statement (.addI x) := by simp [Statement, encode]

theorem ldF (x : RegId) : Statement (.ldF x) := by simp [Statement, encode]

theorem ldB (x : RegId) : Statement (.ldB x) := by simp [Statement, encode]

theorem ldMemVx (x : RegId) : Statement (.ldMemVx x) := by simp [Statement, encode]

theorem ldVxMem (x : RegId) : Statement (.ldVxMem x) := by simp [Statement, encode]

end Sys2Proof.Laws.EncodesPattern
end

