-- ==== Sys2Proof/Laws/Step.lean ====
section
/-! SUPPORT. What a step, an instruction and an event can do: one inversion lemma each, said once. -/

namespace Sys2Proof.Machine

/-! ## A step -/

/-- Every way a step answers a next state. -/
theorem step_eq_next {s t : State} : step s = .next t ↔
    (s.status = .running ∧ ∃ f, s.fetchDecode = .error f ∧ t = s.raise f) ∨
    (s.status = .running ∧ ∃ i, s.fetchDecode = .ok i ∧ exec i s = .next t) ∨
    (∃ x, s.status = .awaitingKey x ∧ waitStep x s = .next t) := by
  cases hs : s.status with
  | running =>
    cases hf : s.fetchDecode <;> simp [step, hs, runningStep, hf, eq_comm]
  | awaitingKey x => simp [step, hs]
  | faulted f => simp [step, hs]

theorem step_of_running {s : State} {i : Instr} (hs : s.status = .running)
    (hf : s.fetchDecode = .ok i) : step s = exec i s := by
  simp [step, hs, runningStep, hf]

theorem step_of_fetch_fault {s : State} {f : Fault} (hs : s.status = .running)
    (hf : s.fetchDecode = .error f) : step s = .next (s.raise f) := by
  simp [step, hs, runningStep, hf]

/-- Every way a waiting step answers a next state (R171). -/
theorem waitStep_eq_next {x : RegId} {s t : State} : waitStep x s = .next t ↔
    (s.lowestKey = none ∧ t = s) ∨
    (∃ k, s.lowestKey = some k ∧ t = ((s.setReg x (keyByte k)).setStatus .running).advance) := by
  cases h : s.lowestKey <;> simp [waitStep, h, eq_comm]

/-! ## The instructions with more than one outcome -/

theorem execRet_eq_next {s t : State} : execRet s = .next t ↔
    (s.sp.val = 0 ∧ t = s.raise .stackUnderflow) ∨
    (∃ h : 0 < s.sp.val, t = { s with
      sp := ⟨s.sp.val - 1, by omega⟩, pc := s.stack[s.sp.val - 1]'(by omega) }) := by
  by_cases h : 0 < s.sp.val
  · have hr : execRet s = .next { s with
        sp := ⟨s.sp.val - 1, by omega⟩, pc := s.stack[s.sp.val - 1]'(by omega) } := by
      simp only [execRet, State.pop_of_pos h]
      rfl
    rw [hr, Host.Outcome.next.injEq]
    exact ⟨fun e => .inr ⟨h, e.symm⟩, fun e => e.elim (fun e => by omega) fun ⟨_, e⟩ => e.symm⟩
  · have hr : execRet s = .next (s.raise .stackUnderflow) := by
      simp only [execRet, State.pop_of_empty (s := s) (by omega), takeFault_eq]
    rw [hr, Host.Outcome.next.injEq]
    exact ⟨fun e => .inl ⟨by omega, e.symm⟩, fun e => e.elim (fun e => e.2.symm) fun ⟨h', _⟩ => absurd h' h⟩

theorem execCall_eq_next {nnn : BitVec 12} {s t : State} : execCall nnn s = .next t ↔
    (s.sp.val = 16 ∧ t = s.raise .stackOverflow) ∨
    (∃ h : s.sp.val < 16, t = { s with
      stack := s.stack.set s.sp.val s.npc, sp := ⟨s.sp.val + 1, by omega⟩, pc := addressOf nnn }) := by
  by_cases h : s.sp.val < 16
  · have hr : execCall nnn s = .next { s with
        stack := s.stack.set s.sp.val s.npc, sp := ⟨s.sp.val + 1, by omega⟩, pc := addressOf nnn } := by
      simp only [execCall, State.push_of_lt h]
      rfl
    rw [hr, Host.Outcome.next.injEq]
    exact ⟨fun e => .inr ⟨h, e.symm⟩, fun e => e.elim (fun e => by omega) fun ⟨_, e⟩ => e.symm⟩
  · have hr : execCall nnn s = .next (s.raise .stackOverflow) := by
      simp only [execCall, State.push_of_full (s := s) (by omega), takeFault_eq]
    rw [hr, Host.Outcome.next.injEq]
    exact ⟨fun e => .inl ⟨by omega, e.symm⟩, fun e => e.elim (fun e => e.2.symm) fun ⟨h', _⟩ => absurd h' h⟩

theorem keySkip_eq_next {s t : State} {x : RegId} {c : Bool → Bool} : s.keySkip x c = .next t ↔
    (15 < (s.reg x).toNat ∧ t = s.raise (.operandOutOfRange (s.reg x))) ∨
    (∃ h : (s.reg x).toNat < 16, t = s.skipIf (c (s.keyDown ⟨(s.reg x).toNat, h⟩))) := by
  by_cases h : (s.reg x).toNat < 16
  · have : ¬ 15 < (s.reg x).toNat := by omega
    simp [State.keySkip, indexOf_of_lt h, h, this, eq_comm]
  · have h' : 15 < (s.reg x).toNat := by omega
    simp [State.keySkip, indexOf_of_ge h', h, h', eq_comm]

theorem execLdF_eq_next {s t : State} {x : RegId} : execLdF x s = .next t ↔
    (15 < (s.reg x).toNat ∧ t = s.raise (.operandOutOfRange (s.reg x))) ∨
    ((s.reg x).toNat < 16 ∧ t = (s.setI (glyphAddress s.cfg (s.reg x))).advance) := by
  by_cases h : (s.reg x).toNat < 16
  · have : ¬ 15 < (s.reg x).toNat := by omega
    simp [execLdF, indexOf_of_lt h, h, this, eq_comm]
  · have h' : 15 < (s.reg x).toNat := by omega
    simp [execLdF, indexOf_of_ge h', h, h', eq_comm]

theorem execLdVxK_eq_next {s t : State} {x : RegId} : execLdVxK x s = .next t ↔
    (s.lowestKey = none ∧ t = s.setStatus (.awaitingKey x)) ∨
    (∃ k, s.lowestKey = some k ∧ t = (s.setReg x (keyByte k)).advance) := by
  cases h : s.lowestKey <;> simp [execLdVxK, h, eq_comm]

/-- A sum of cases of which one is decided: the shape of every instruction that may fault on an access. -/
theorem next_or_fault {r : Result} {p q : Prop} {u v t : State} (hq : ¬ p ↔ q) (hp : p → r = .next u)
    (hn : q → r = .next v) : r = .next t ↔ (p ∧ t = u) ∨ (q ∧ t = v) := by
  by_cases h : p
  · have h' : ¬ q := fun hq' => hq.2 hq' h
    rw [hp h, Host.Outcome.next.injEq]
    exact ⟨fun e => .inl ⟨h, e.symm⟩, fun e => e.elim (fun e => e.2.symm) fun e => absurd e.1 h'⟩
  · rw [hn (hq.1 h), Host.Outcome.next.injEq]
    exact ⟨fun e => .inr ⟨hq.1 h, e.symm⟩, fun e => e.elim (fun e => absurd e.1 h) fun e => e.2.symm⟩

theorem execDrw_eq_next {s t : State} {x y : RegId} {n : BitVec 4} : execDrw x y n s = .next t ↔
    ((0 < n.toNat ∧ memSize < s.i.toNat + n.toNat) ∧
      t = s.raise (.memoryOutOfBounds (max s.i.toNat memSize))) ∨
    ((n.toNat = 0 ∨ s.i.toNat + n.toNat ≤ memSize) ∧
      t = s.drawn (raster s.fb (s.reg x).toNat (s.reg y).toNat (s.bytesAt s.i.toNat n.toNat))) :=
  next_or_fault (by omega)
    (fun h => by simp only [execDrw, State.loadBlock_of_not_fits h.1 h.2, orFault_error])
    (fun h => by simp only [execDrw, State.loadBlock_of_fits h, orFault_ok])

theorem execLdB_eq_next {s t : State} {x : RegId} : execLdB x s = .next t ↔
    (memSize < s.i.toNat + 3 ∧ t = s.raise (.memoryOutOfBounds (max s.i.toNat memSize))) ∨
    (s.i.toNat + 3 ≤ memSize ∧ t = (s.putBytes s.i.toNat (decimalDigits (s.reg x))).advance) :=
  next_or_fault (by omega)
    (fun h => by
      rw [execLdB, State.storeBlock_of_not_fits (bs := decimalDigits (s.reg x)) (by simp) (by simpa using h),
        orFault_error])
    (fun h => by
      rw [execLdB, State.storeBlock_of_fits (bs := decimalDigits (s.reg x)) (.inr (by simpa using h)),
        orFault_ok, complete_eq])

theorem execLdMemVx_eq_next {s t : State} {x : RegId} : execLdMemVx x s = .next t ↔
    (memSize < s.i.toNat + (x.val + 1) ∧
      t = s.raise (.memoryOutOfBounds (max s.i.toNat memSize))) ∨
    (s.i.toNat + (x.val + 1) ≤ memSize ∧
      t = ((s.putBytes s.i.toNat (s.regBlock x)).advanceI (x.val + 1)).advance) :=
  next_or_fault (by omega)
    (fun h => by
      rw [execLdMemVx, State.storeBlock_of_not_fits (bs := s.regBlock x) (by simp) (by simpa using h),
        orFault_error])
    (fun h => by
      rw [execLdMemVx, State.storeBlock_of_fits (bs := s.regBlock x) (.inr (by simpa using h)),
        orFault_ok, complete_eq])

theorem execLdVxMem_eq_next {s t : State} {x : RegId} : execLdVxMem x s = .next t ↔
    (memSize < s.i.toNat + (x.val + 1) ∧
      t = s.raise (.memoryOutOfBounds (max s.i.toNat memSize))) ∨
    (s.i.toNat + (x.val + 1) ≤ memSize ∧
      t = ((s.setRegBlock (s.bytesAt s.i.toNat (x.val + 1))).advanceI (x.val + 1)).advance) :=
  next_or_fault (by omega)
    (fun h => by rw [execLdVxMem, State.loadBlock_of_not_fits (Nat.succ_pos _) h, orFault_error])
    (fun h => by rw [execLdVxMem, State.loadBlock_of_fits (.inr h), orFault_ok, complete_eq])

/-! ## Events -/

theorem whenLive_eq_next {s s' t : State} : whenLive s s' = .next t ↔
    (∀ f, s.status ≠ .faulted f) ∧ t = s' := by
  cases hs : s.status <;> simp [whenLive, hs, eq_comm]

theorem load_eq_next {s t : State} {bytes : List Byte} : load bytes s = .next t ↔
    (maxProgram < bytes.length ∧ t = s.raise (.romTooLarge bytes.length)) ∨
    (bytes.length ≤ maxProgram ∧ t = s.putBytes loadBase bytes) := by
  by_cases h : bytes.length ≤ maxProgram
  · have h' : ¬ maxProgram < bytes.length := by omega
    simp [load, h, h', eq_comm]
  · have h' : maxProgram < bytes.length := by omega
    simp [load, h, h', eq_comm]

end Sys2Proof.Machine
end

