-- ==== Sys2Proof/Tests/Slice0.lean ====
section
/-! SUPPORT. Tests. Expected values are the spec's own: the examples of the rules named and of
spec/95_test_vectors.md; words are written out from the patterns of R85. The last section shows for each
obligation with hypotheses that something meets them, clause by clause at the ends of its ranges. -/

namespace Sys2Proof.Tests

open Sys2Proof Sys2Proof.Machine

/-! ## Helpers -/

/-- One step of the instruction `w` placed at the `PC` of `s`. -/
def stepped (w : Nat) (s : State) : Option State :=
  match step (s.withFetchWord 16 w) with
  | .next t => some t
  | .fault _ => none
  | .refused _ => none

/-- The reset machine with V0 and V1 set. -/
def withV01 (a b : Byte) : State := (State.reset.setReg 0 a).setReg 1 b

/-- The reset machine with one bit of the configuration on. -/
def shiftingVy : State := { State.reset with cfg := { Config.default with shiftUsesVy := true } }
def incrementing : State := { State.reset with cfg := { Config.default with loadStoreIncrementsI := true } }
def flagging : State := { State.reset with cfg := { Config.default with fx1eOverflowFlag := true } }

/-- A machine stopped by a fault. -/
def stopped : State := { State.reset with status := .faulted .stackUnderflow }

/-! ## Well-formedness -/

theorem test_wf_refuses_bnnn_by_default : Instr.wf Config.default (.jpV0 0x300) = false := by decide

theorem test_wf_admits_bnnn_when_enabled : Instr.wf tableConfig (.jpV0 0x300) = true := by decide

/-- R60, R244: FONT_BASE 0x1B1 puts the last font byte at 0x200, where `Load` would reach it. -/
theorem test_wf_refuses_font_that_load_reaches :
    Config.wf { Config.default with fontBase := 0x1B1 } = false ∧
    Config.wf { Config.default with fontBase := 0x1B0 } = true := by decide

/-! ## Decoding: words written out nibble by nibble from R85 -/

theorem test_decode_flow :
    decode Config.default 0b0000000011100000 = .instr .cls ∧
    decode Config.default 0b0000000011101110 = .instr .ret ∧
    decode Config.default 0b0001001000000100 = .instr (.jp 0x204) ∧
    decode Config.default 0b0010001000010000 = .instr (.call 0x210) ∧
    decode tableConfig 0b1011001100000000 = .instr (.jpV0 0x300) := by decide

theorem test_decode_skips :
    decode Config.default 0b0011000100000000 = .instr (.seImm 1 0x00) ∧
    decode Config.default 0b0100001000001000 = .instr (.sneImm 2 0x08) ∧
    decode Config.default 0b0101000000010000 = .instr (.seReg 0 1) ∧
    decode Config.default 0b1001000000010000 = .instr (.sneReg 0 1) ∧
    decode Config.default 0b1110010010011110 = .instr (.skp 4) ∧
    decode Config.default 0b1110010010100001 = .instr (.sknp 4) := by decide

theorem test_decode_loads_and_alu :
    decode Config.default 0b0110000000000101 = .instr (.ldImm 0 0x05) ∧
    decode Config.default 0b0111000111111111 = .instr (.addImm 1 0xFF) ∧
    decode Config.default 0b1000001000110000 = .instr (.ldReg 2 3) ∧
    decode Config.default 0b1000000000010001 = .instr (.orReg 0 1) ∧
    decode Config.default 0b1000000000010010 = .instr (.andReg 0 1) ∧
    decode Config.default 0b1000000000010011 = .instr (.xorReg 0 1) ∧
    decode Config.default 0b1000000000010100 = .instr (.addReg 0 1) ∧
    decode Config.default 0b1000000000010101 = .instr (.subReg 0 1) ∧
    decode Config.default 0b1000000000010110 = .instr (.shr 0 1) ∧
    decode Config.default 0b1000000000010111 = .instr (.subn 0 1) ∧
    decode Config.default 0b1000111101001110 = .instr (.shl 15 4) := by decide

theorem test_decode_index_random_draw :
    decode Config.default 0b1010001000010000 = .instr (.ldI 0x210) ∧
    decode Config.default 0b1100000100001111 = .instr (.rnd 1 0x0F) ∧
    decode Config.default 0b1101000000010101 = .instr (.drw 0 1 5) ∧
    decode Config.default 0b1111001100011110 = .instr (.addI 3) := by decide

theorem test_decode_transfers :
    decode Config.default 0b1111001000000111 = .instr (.ldVxDt 2) ∧
    decode Config.default 0b1111000100001010 = .instr (.ldVxK 1) ∧
    decode Config.default 0b1111000000010101 = .instr (.ldDtVx 0) ∧
    decode Config.default 0b1111010100011000 = .instr (.ldStVx 5) ∧
    decode Config.default 0b1111000000101001 = .instr (.ldF 0) ∧
    decode Config.default 0b1111000000110011 = .instr (.ldB 0) ∧
    decode Config.default 0b1111000001010101 = .instr (.ldMemVx 0) ∧
    decode Config.default 0b1111001001100101 = .instr (.ldVxMem 2) := by decide

/-- R87: a word at each end of the illegal ranges. -/
theorem test_decode_illegal_low :
    decode Config.default 0x0000 = .unknownOpcode 0x0000 ∧ decode Config.default 0x0FFF = .unknownOpcode 0x0FFF ∧
    decode Config.default 0x5001 = .unknownOpcode 0x5001 ∧ decode Config.default 0x8008 = .unknownOpcode 0x8008 ∧
    decode Config.default 0x8FFF = .unknownOpcode 0x8FFF := by decide

theorem test_decode_illegal_high :
    decode Config.default 0x9FFF = .unknownOpcode 0x9FFF ∧ decode Config.default 0xB000 = .unknownOpcode 0xB000 ∧
    decode Config.default 0xEF9F = .unknownOpcode 0xEF9F ∧ decode Config.default 0xFF66 = .unknownOpcode 0xFF66 ∧
    decode Config.default 0xFFFF = .unknownOpcode 0xFFFF := by decide

theorem test_encode_bytes : encodeBytes (.ldI 0x210) = [0xA2, 0x10] := by decide

theorem test_decode_bytes :
    decodeBytes Config.default [0xA2, 0x10, 0x77] = .word (.instr (.ldI 0x210)) [0x77] ∧
    decodeBytes Config.default [0xA2] = .truncated := by decide

theorem test_table_word :
    decodeTableWord 16 0xB300 = some (.jpV0 0x300) ∧ decodeTableWord 16 0x00EE = some .ret ∧
    decodeTableWord 16 0x8008 = none := by decide

/-! ## Memory and reset -/

theorem test_reset_is_core_reset : core.reset = State.reset := rfl

/-- R34, R39: font bytes, the gap after the font, the top of memory. -/
theorem test_reset_memory :
    (State.reset.byteAt 0, State.reset.byteAt 5, State.reset.byteAt 0x4F, State.reset.byteAt 0x50,
      State.reset.byteAt 0xFFF) = (0xF0, 0x20, 0x80, 0, 0) := by decide

theorem test_write_back_restores_reset_memory :
    ((State.reset.putByte 0x300 7).putByte 0x300 0).mem = [] ∧
    ((State.reset.putByte 0 7).putByte 0 0xF0).mem = [] := by decide

/-- R53: a word at 0xFFE is read, at 0xFFF its second byte does not exist. -/
theorem test_word_at_the_top :
    State.reset.readWord 0xFFE = .ok 0 ∧
    State.reset.readWord 0xFFF = .error (.memoryOutOfBounds 0x1000) := by decide

/-- R245: from reset with nothing loaded the first step meets the word 0x0000. -/
theorem test_step_from_reset :
    (match step State.reset with
      | .next t => decide (t.status = .faulted (.unknownOpcode 0) ∧ t.pc = 0x200)
      | .fault _ => false
      | .refused _ => false) = true := by decide

/-! ## Flow (R100 to R104) -/

theorem test_cls :
    (stepped 0x00E0 { State.reset with fb := State.reset.fb.set 5 (Vector.replicate 64 true) }).map
      (fun t => (pixelAt t.fb 5 5, t.pc, t.renders)) = some (false, 0x202, []) := by decide

theorem test_ret :
    (stepped 0x00EE { State.reset with sp := 1, pc := 0x212, stack := State.reset.stack.set 0 0x206 }).map
      (fun t => (t.sp, t.pc)) = some (0, 0x206) := by decide

theorem test_ret_underflow :
    (stepped 0x00EE State.reset).map (fun t => (t.status, t.pc)) =
      some (.faulted .stackUnderflow, 0x200) := by decide

theorem test_jp : (stepped 0x1204 { State.reset with pc := 0x20A }).map (·.pc) = some 0x204 := by decide

theorem test_call :
    (stepped 0x2210 { State.reset with pc := 0x204 }).map (fun t => (t.stack[0], t.sp, t.pc)) =
      some (0x206, 1, 0x210) := by decide

theorem test_call_overflow :
    (stepped 0x2200 { State.reset with sp := 16 }).map (fun t => (t.status, t.sp, t.pc)) =
      some (.faulted .stackOverflow, 16, 0x200) := by decide

theorem test_jp_v0 : (stepped 0xB300 (withV01 4 0)).map (·.pc) = some 0x304 := by decide

/-! ## Skips (R110 to R113, R160, R161) -/

theorem test_se_imm :
    (stepped 0x3100 { State.reset with pc := 0x208 }).map (·.pc) = some 0x20C ∧
    (stepped 0x3100 { withV01 0 1 with pc := 0x208 }).map (·.pc) = some 0x20A := by decide

theorem test_sne_imm :
    (stepped 0x4208 { State.reset.setReg 2 7 with pc := 0x300 }).map (·.pc) = some 0x304 ∧
    (stepped 0x4208 { State.reset.setReg 2 8 with pc := 0x300 }).map (·.pc) = some 0x302 := by decide

theorem test_se_reg :
    (stepped 0x5010 (withV01 5 5)).map (·.pc) = some 0x204 ∧
    (stepped 0x5010 (withV01 5 6)).map (·.pc) = some 0x202 := by decide

theorem test_sne_reg :
    (stepped 0x9010 (withV01 5 6)).map (·.pc) = some 0x204 ∧
    (stepped 0x9010 (withV01 5 5)).map (·.pc) = some 0x202 := by decide

theorem test_skp :
    (stepped 0xE49E { (State.reset.setReg 4 7).setKeyLatch 7 true with pc := 0x220 }).map (·.pc) =
      some 0x224 ∧
    (stepped 0xE49E { State.reset.setReg 4 7 with pc := 0x220 }).map (·.pc) = some 0x222 := by decide

theorem test_skp_value_above_15 :
    (stepped 0xE49E (State.reset.setReg 4 16)).map (·.status) =
      some (.faulted (.operandOutOfRange 16)) := by decide

theorem test_sknp :
    (stepped 0xE4A1 { State.reset.setReg 4 7 with pc := 0x220 }).map (·.pc) = some 0x224 ∧
    (stepped 0xE4A1 { (State.reset.setReg 4 7).setKeyLatch 7 true with pc := 0x220 }).map (·.pc) =
      some 0x222 := by decide

/-! ## Loads and arithmetic (R120 to R130) -/

theorem test_ld_imm : (stepped 0x6005 State.reset).map (·.reg 0) = some 5 := by decide

theorem test_add_imm :
    (stepped 0x71FF (withV01 0 5)).map (fun t => (t.reg 1, t.reg 15)) = some (4, 0) := by decide

theorem test_ld_reg : (stepped 0x8230 (State.reset.setReg 3 0xAB)).map (·.reg 2) = some 0xAB := by decide

theorem test_or : (stepped 0x8011 (withV01 0xF0 0x0F)).map (·.reg 0) = some 0xFF := by decide

theorem test_and : (stepped 0x8012 (withV01 0xF3 0x3F)).map (·.reg 0) = some 0x33 := by decide

theorem test_xor : (stepped 0x8013 (withV01 0xFF 0x0F)).map (·.reg 0) = some 0xF0 := by decide

theorem test_add_reg :
    (stepped 0x8014 (withV01 0xFF 1)).map (fun t => (t.reg 0, t.reg 15)) = some (0, 1) ∧
    (stepped 0x8014 (withV01 1 1)).map (fun t => (t.reg 0, t.reg 15)) = some (2, 0) := by decide

/-- R131: with X = 15 the flag wins, with Y = 15 the old VF is the operand. -/
theorem test_add_reg_vf :
    (stepped 0x8F14 ((withV01 0 0xFF).setReg 15 2)).map (·.reg 15) = some 1 ∧
    (stepped 0x80F4 ((withV01 3 0).setReg 15 7)).map (fun t => (t.reg 0, t.reg 15)) = some (10, 0) := by
  decide

theorem test_sub_reg :
    (stepped 0x8015 (withV01 5 7)).map (fun t => (t.reg 0, t.reg 15)) = some (0xFE, 0) ∧
    (stepped 0x8015 (withV01 7 5)).map (fun t => (t.reg 0, t.reg 15)) = some (2, 1) := by decide

theorem test_sub_reg_equal :
    (stepped 0x8015 (withV01 7 7)).map (fun t => (t.reg 0, t.reg 15)) = some (0, 1) := by decide

theorem test_shr :
    (stepped 0x8016 (withV01 5 0x80)).map (fun t => (t.reg 0, t.reg 15)) = some (2, 1) ∧
    (stepped 0x8016 ((shiftingVy.setReg 0 5).setReg 1 0x80)).map (fun t => (t.reg 0, t.reg 15)) =
      some (0x40, 0) := by decide

theorem test_subn :
    (stepped 0x8017 (withV01 5 7)).map (fun t => (t.reg 0, t.reg 15)) = some (2, 1) ∧
    (stepped 0x8017 (withV01 7 5)).map (fun t => (t.reg 0, t.reg 15)) = some (0xFE, 0) := by decide

theorem test_shl :
    (stepped 0x801E (withV01 0x81 0x01)).map (fun t => (t.reg 0, t.reg 15)) = some (2, 1) ∧
    (stepped 0x801E ((shiftingVy.setReg 0 0x81).setReg 1 1)).map (fun t => (t.reg 0, t.reg 15)) =
      some (2, 0) := by decide

/-! ## Index and random (R140 to R142) -/

theorem test_ld_i : (stepped 0xA210 State.reset).map (·.i) = some 0x210 := by decide

theorem test_add_i :
    (stepped 0xF31E { State.reset.setReg 3 5 with i := 0x210 }).map (fun t => (t.i, t.reg 15)) =
      some (0x215, 0) ∧
    (stepped 0xF31E { State.reset.setReg 3 1 with i := 0xFFFF }).map (·.i) = some 0 := by decide

theorem test_add_i_flag :
    (stepped 0xF31E { flagging.setReg 3 1 with i := 0xFFF }).map (fun t => (t.i, t.reg 15)) =
      some (0x1000, 1) ∧
    (stepped 0xF31E { (flagging.setReg 3 0).setReg 15 9 with i := 0xFFF }).map (·.reg 15) = some 0 := by
  decide

/-- The byte itself is a free value. The test sees only that one is drawn. -/
theorem test_rnd : (stepped 0xC10F State.reset).map (fun t => (t.draws, t.pc)) = some (1, 0x202) := by decide

/-! ## Draw (R150 to R156) -/

/-- The document's scenario: 0xF0 drawn at (5, 5) sets columns 5 to 8 of row 5, VF = 0. -/
theorem test_drw :
    (stepped 0xD015 { (withV01 5 5).putByte 0x210 0xF0 with i := 0x210 }).map (fun t =>
      ([pixelAt t.fb 4 5, pixelAt t.fb 5 5, pixelAt t.fb 8 5, pixelAt t.fb 9 5, pixelAt t.fb 5 6],
        t.reg 15, t.renders.length)) =
      some ([false, true, true, false, false], 0, 1) := by decide

/-- Clipped at the right edge, and a pixel that is set and turned off. -/
theorem test_drw_clip_and_collision :
    (stepped 0xD011 { (withV01 62 31).putByte 0x210 0xC0 with
      i := 0x210, fb := State.reset.fb.set 31 ((Vector.replicate 64 false).set 63 true) }).map (fun t =>
      (pixelAt t.fb 62 31, pixelAt t.fb 63 31, pixelAt t.fb 0 31, t.reg 15)) =
      some (true, false, false, 1) := by decide

/-! ## Timers, keys, font, memory transfers (R170 to R177) -/

theorem test_ld_vx_dt : (stepped 0xF207 { State.reset with dt := 0x3C }).map (·.reg 2) = some 0x3C := by decide

theorem test_ld_vx_k_waits :
    (stepped 0xF10A { State.reset with pc := 0x204 }).map (fun t => (t.status, t.pc)) =
      some (.awaitingKey 1, 0x204) := by decide

theorem test_ld_vx_k_takes_the_lowest :
    (stepped 0xF10A ((State.reset.setKeyLatch 9 true).setKeyLatch 7 true)).map (fun t =>
      (t.reg 1, t.pc, t.status)) = some (7, 0x202, .running) := by decide

theorem test_ld_dt_vx : (stepped 0xF015 (withV01 3 0)).map (·.dt) = some 3 := by decide

theorem test_ld_st_vx : (stepped 0xF518 (State.reset.setReg 5 2)).map (fun t => (t.st, t.audioActive)) =
    some (2, true) := by decide

theorem test_ld_f :
    (stepped 0xF029 (withV01 0x0A 0)).map (·.i) = some 0x32 ∧
    (stepped 0xF029 (withV01 0x10 0)).map (·.status) = some (.faulted (.operandOutOfRange 0x10)) := by
  decide

theorem test_ld_b :
    (stepped 0xF033 { withV01 234 0 with i := 0x300 }).map (fun t =>
      [t.byteAt 0x2FF, t.byteAt 0x300, t.byteAt 0x301, t.byteAt 0x302, t.byteAt 0x303]) =
      some [0, 2, 3, 4, 0] := by decide

theorem test_ld_b_at_the_top :
    (stepped 0xF033 { withV01 255 0 with i := 0xFFD }).map (fun t => [t.byteAt 0xFFD, t.byteAt 0xFFF]) =
      some [2, 5] ∧
    (stepped 0xF033 { withV01 255 0 with i := 0xFFE }).map (fun t => (t.status, t.byteAt 0xFFE)) =
      some (.faulted (.memoryOutOfBounds 0x1000), 0) := by decide

theorem test_ld_mem_vx :
    (stepped 0xF055 { withV01 0x61 0 with i := 0x206 }).map (fun t => (t.byteAt 0x206, t.i)) =
      some (0x61, 0x206) ∧
    (stepped 0xF155 { (incrementing.setReg 0 1).setReg 1 2 with i := 0x300 }).map (fun t =>
      (t.byteAt 0x300, t.byteAt 0x301, t.i)) = some (1, 2, 0x302) := by decide

theorem test_ld_vx_mem :
    (stepped 0xF265 { ((State.reset.putByte 0x300 2).putByte 0x301 3).putByte 0x302 4 with
      i := 0x300, v := Vector.replicate 16 9 }).map (fun t => ([t.reg 0, t.reg 1, t.reg 2, t.reg 3], t.i)) =
      some ([2, 3, 4, 9], 0x300) := by decide

theorem test_ld_vx_mem_outside :
    (stepped 0xFF65 { State.reset with i := 0xFF1 }).map (·.status) =
      some (.faulted (.memoryOutOfBounds 0x1000)) := by decide

/-! ## Events -/

theorem test_tick :
    (State.ticked { State.reset with dt := 1, st := 0 }).dt = 0 ∧
    (State.ticked { State.reset with dt := 0, st := 255 }).st = 254 := by decide

theorem test_wait_ends_with_the_key :
    (match step { State.reset.setKeyLatch 7 true with status := .awaitingKey 1, pc := 0x204 } with
      | .next t => decide (t.reg 1 = 7 ∧ t.pc = 0x206 ∧ t.status = .running)
      | .fault _ => false
      | .refused _ => false) = true := by decide

theorem test_load_twice_is_refused :
    (match runEvents [.load [0x12, 0x00], .load [0x12, 0x00]] (Session.start Config.default) with
      | .next _ => false
      | .fault _ => false
      | .refused q => decide (q = .loadNotEnabled)) = true := by decide

theorem test_load_then_step :
    (match runEvents [.load [0x6A, 0x42], .step] (Session.start Config.default) with
      | .next h => decide (h.core.reg 10 = 0x42 ∧ h.core.pc = 0x202)
      | .fault _ => false
      | .refused _ => false) = true := by decide

/-! ## Witnesses of the obligations' hypotheses -/

/-- The reset machine with the two bytes of `w` at 0x200. -/
def holding (w : Nat) : State := State.reset.withFetchWord 16 w

/-- Waiting in `FX0A` at 0x200, destination V1. -/
def waiting : State := { holding 0xF10A with status := .awaitingKey 1 }

theorem holding_inv {w : Nat} (hc : (holding w).cfg.wf = true)
    (hm : Memory.wf (holding w).cfg (holding w).mem = true) (hp : (holding w).pc.toNat ≤ 0x10FE)
    (hs : (holding w).sp.val = 0) (hr : (holding w).status = .running) : (holding w).Inv :=
  ⟨hc, hm, hp, fun k hk => absurd hk (by omega), fun x hx => by rw [hr] at hx; cases hx⟩

theorem witness_DecodeInvertsEncode :
    Instr.wf tableConfig (.jpV0 0xFFF) = true ∧ Instr.wf Config.default (.drw 15 15 15) = true := by decide

theorem witness_DecodedWordIsItsEncoding : decode Config.default 0xDFFF = .instr (.drw 15 15 15) := by decide

/-- A word at each end of each range of `IllegalWord`. -/
theorem witness_IllegalWord :
    (IllegalWord false 0x0000 ∧ IllegalWord false 0x0FFF) ∧ (IllegalWord false 0x5001 ∧ IllegalWord false 0x5FFF) ∧
    (IllegalWord false 0x8008 ∧ IllegalWord false 0x8FFF) ∧ (IllegalWord false 0x9001 ∧ IllegalWord false 0x9FFF) ∧
    (IllegalWord false 0xB000 ∧ IllegalWord false 0xBFFF) ∧ (IllegalWord false 0xE000 ∧ IllegalWord false 0xEFFF) ∧
    (IllegalWord false 0xF000 ∧ IllegalWord false 0xFFFF) := by
  simp [IllegalWord]

theorem witness_ExactlyTheListedWordsAreUnknown :
    State.reset.status = .running ∧ State.reset.pc.toNat + 1 < 0x1000 ∧
    (0x0000 : Word).toNat = 256 * (State.reset.byteAt State.reset.pc.toNat).toNat +
      (State.reset.byteAt (State.reset.pc.toNat + 1)).toNat ∧
    IllegalWord State.reset.cfg.bnnnEnabled 0x0000 := by
  unfold IllegalWord
  decide

theorem witness_MemoryPrimitivesCheckBounds :
    Memory.wf (holding 0x6005).cfg (holding 0x6005).mem = true ∧ 0x1000 ≤ (0x1000 : Nat) ∧
    (0xFFF : Nat) < 0x1000 ∧ (0xFFE : Nat) + 1 < 0x1000 := by decide

theorem witness_CanonicalMemoryIsDeterminedByItsBytes :
    Memory.wf Config.default [(0, 1), (0xFFF, 2)] = true ∧
    ∀ a < 0x1000, Memory.read (resetByte Config.default a) a [(0, 1), (0xFFF, 2)] =
      Memory.read (resetByte Config.default a) a [(0, 1), (0xFFF, 2)] :=
  ⟨by decide, fun _ _ => rfl⟩

theorem witness_StoredCodeIsExecutedNext :
    ∃ s t : State, Memory.wf s.cfg s.mem = true ∧ s.status = .running ∧ s.i = s.pc + 2 ∧
      s.pc.toNat + 2 + (1 + 1) ≤ 0x1000 ∧
      (0x6A42 : Word).toNat = 256 * (s.reg 0).toNat + (s.reg 1).toNat ∧
      decode s.cfg 0x6A42 = .instr (.ldImm 10 0x42) ∧ exec (.ldMemVx 1) s = .next t :=
  ⟨{ withV01 0x6A 0x42 with i := 0xFFE, pc := 0xFFC }, _, by decide, by decide, by decide, by decide, by decide,
    by decide, rfl⟩

theorem witness_StepRunsTheDecodedInstruction :
    (holding 0x6005).status = .running ∧ (holding 0x6005).pc.toNat + 1 < 0x1000 ∧
    (0x6005 : Word).toNat = 256 * ((holding 0x6005).byteAt (holding 0x6005).pc.toNat).toNat +
      ((holding 0x6005).byteAt ((holding 0x6005).pc.toNat + 1)).toNat ∧
    decode (holding 0x6005).cfg 0x6005 = .instr (.ldImm 0 5) := by decide

theorem witness_FetchOutsideMemoryFaults :
    (State.reset.setPc 0xFFF).status = .running ∧ 0xFFF ≤ (State.reset.setPc 0xFFF).pc.toNat ∧
    0xFFF ≤ (State.reset.setPc 0x1000).pc.toNat ∧ 0xFFF ≤ (State.reset.setPc 0xFFFF).pc.toNat := by decide

theorem witness_WaitingStepChecksKeysOnly :
    (∀ k, waiting.keyDown k = false) ∧ (waiting.setKeyLatch 0 true).keyDown 0 = true ∧
    (waiting.setKeyLatch 15 true).keyDown 15 = true ∧
    ∀ j, j < (15 : KeyId) → (waiting.setKeyLatch 15 true).keyDown j = false := by
  have h : ∀ k, waiting.keyDown k = false := fun k => by
    show (Vector.replicate 16 false)[k.val] = false
    simp
  refine ⟨h, by simp [State.setKeyLatch_keyDown], by simp [State.setKeyLatch_keyDown], fun j hj => ?_⟩
  rw [State.setKeyLatch_keyDown, if_neg (ne_of_lt hj), h]

theorem witness_WaitingEqualsFetchingAgain : waiting.Inv ∧ waiting.status = .awaitingKey 1 :=
  ⟨⟨by decide, by decide, by decide, fun k hk => absurd hk (Nat.not_lt_zero _), fun x hx => by
    cases hx; rfl⟩, rfl⟩

theorem witness_StatusTransitionsOfAStep : ∃ t u : State, step (holding 0xF10A) = .next t ∧ step waiting = .next u :=
  ⟨_, _, rfl, rfl⟩

theorem witness_SelfJumpIsAFixedPoint : (holding 0x1200).atEnd := ⟨rfl, 0x200, rfl, rfl⟩

theorem witness_FaultEntryChangesStatusOnly :
    ∃ h', (∀ g, (Session.start Config.default).core.status ≠ .faulted g) ∧
      handle .step (Session.start Config.default) = .next h' ∧
      h'.core.status = .faulted (.unknownOpcode 0) :=
  ⟨_, nofun, rfl, rfl⟩

/-- A fault of fetch, of decode, and of execution. -/
theorem witness_OnlyTheNamedInstructionsFault :
    (∃ t f, step (State.reset.setPc 0xFFF) = .next t ∧ t.status = .faulted f) ∧
    (∃ t f, step State.reset = .next t ∧ t.status = .faulted f) ∧
    ∃ t f, exec .ret State.reset = .next t ∧ t.status = .faulted f :=
  ⟨⟨_, _, rfl, rfl⟩, ⟨_, _, rfl, rfl⟩, _, _, rfl, rfl⟩

theorem witness_FaultedMachineAcceptsOnlyReset :
    ({ core := stopped, loadOpen := false } : Session).core.status = .faulted .stackUnderflow := rfl

theorem witness_ResetMeetsInvariant :
    Config.wf Config.default = true ∧ Config.wf { Config.default with fontBase := 0x1B0 } = true := by decide

theorem witness_StepKeepsInvariant : ∃ t, (holding 0x6005).Inv ∧ step (holding 0x6005) = .next t :=
  ⟨_, holding_inv (by decide) (by decide) (by decide) (by decide) (by decide), rfl⟩

theorem witness_EventsKeepInvariant :
    ∃ h : Session, h.Inv ∧ ∀ e ∈ [Event.reset, .load [0x12, 0x00], .step, .tick, .setKey 15 true],
      ∃ h', handle e h = .next h' :=
  ⟨Session.start Config.default,
    ⟨⟨by decide, by decide, by decide, fun k hk => absurd hk (Nat.not_lt_zero _), nofun⟩,
      fun _ => rfl⟩, by
    intro e he
    simp only [List.mem_cons, List.not_mem_nil, or_false] at he
    rcases he with rfl | rfl | rfl | rfl | rfl <;> exact ⟨_, rfl⟩⟩

theorem witness_ReachableSessionsMeetInvariant :
    Reachable { core := State.reset, loadOpen := true } := ⟨Config.default, [], by decide, rfl⟩

/-- Each flag of the table, and an instruction outside it. -/
theorem witness_FlagIsWrittenByTheTableOnly :
    (∃ t, exec (.addReg 0 1) State.reset = .next t ∧ t.status = .running) ∧
    (∃ t, exec (.subReg 0 1) State.reset = .next t ∧ t.status = .running) ∧
    (∃ t, exec (.subn 0 1) State.reset = .next t ∧ t.status = .running) ∧
    (∃ t, exec (.shr 0 1) State.reset = .next t ∧ t.status = .running) ∧
    (∃ t, exec (.shl 0 1) shiftingVy = .next t ∧ t.status = .running) ∧
    writesFlag flagging.cfg (.addI 3) ∧ (∃ t, exec (.addI 3) flagging = .next t ∧ t.status = .running) ∧
    (∃ t, exec (.drw 0 1 5) State.reset = .next t ∧ t.status = .running) ∧
    (∃ t, exec (.orReg 0 1) State.reset = .next t ∧ t.status = .running) ∧
    ¬ writesFlag Config.default (.orReg 0 1) ∧ ¬ destinations (.orReg 0 1) 15 ∧
    ¬ writesFlag Config.default (.addI 3) :=
  ⟨⟨_, rfl, rfl⟩, ⟨_, rfl, rfl⟩, ⟨_, rfl, rfl⟩, ⟨_, rfl, rfl⟩, ⟨_, rfl, rfl⟩, rfl, ⟨_, rfl, rfl⟩,
    ⟨_, rfl, rfl⟩, ⟨_, rfl, rfl⟩, id, by simp [destinations],
    by simp [writesFlag, Config.default]⟩

theorem witness_RegistersChangeOnlyAtDestinations :
    (∃ t, exec (.ldVxMem 14) State.reset = .next t) ∧ ¬ destinations (.ldVxMem 14) 15 ∧
    ¬ writesFlag Config.default (.ldVxMem 14) ∧ (∃ t, exec (.addReg 0 1) State.reset = .next t) ∧
    ¬ destinations (.addReg 0 1) 1 :=
  ⟨⟨_, rfl⟩, by simp [destinations], id, ⟨_, rfl⟩, by simp [destinations]⟩

theorem witness_MemoryChangesOnlyWhereStored :
    ∃ t, exec (.ldB 0) (State.reset.setI 0x300) = .next t ∧
      ∀ a ∈ [0x2FF, 0x303], ¬ (0x300 ≤ a ∧ a < 0x300 + storedBytes (.ldB 0)) :=
  ⟨_, rfl, by decide⟩

theorem witness_FramebufferChangesOnlyByClearAndDraw :
    (∃ t, exec .cls State.reset = .next t) ∧ (∃ t, exec (.drw 0 1 5) State.reset = .next t) ∧
    ∃ t, exec (.jp 0) State.reset = .next t := ⟨⟨_, rfl⟩, ⟨_, rfl⟩, _, rfl⟩

theorem witness_StackAndIndexChangeOnlyByTheirInstructions :
    ∃ t, exec (.call 0x300) { State.reset with sp := 15 } = .next t := ⟨_, rfl⟩

theorem witness_StepNeverCountsTimersOrMovesKeys :
    ∃ t, step ((holding 0xF015).setReg 0 3) = .next t ∧ t.dt = 3 := ⟨_, rfl, by decide⟩

theorem witness_RenderOncePerCompletedDraw :
    (∃ t, exec (.drw 0 1 5) State.reset = .next t ∧ t.status = .running) ∧
    ∃ t, exec (.drw 0 1 5) (State.reset.setI 0xFFFF) = .next t ∧ t.status ≠ .running :=
  ⟨⟨_, rfl, rfl⟩, _, rfl, nofun⟩

theorem witness_RandomByteIsMasked :
    (∀ x nn, Instr.cls ≠ .rnd x nn) ∧ ∃ t, exec .cls State.reset = .next t := ⟨nofun, _, rfl⟩

theorem witness_PcAfterEachInstruction :
    (∃ t, exec (.jp 0) State.reset = .next t ∧ t.status = .running) ∧
    ∃ t, exec (.ldVxK 0) State.reset = .next t ∧ t.status ≠ .running := ⟨⟨_, rfl, rfl⟩, _, rfl, nofun⟩

theorem witness_RetPopsTheStack :
    State.reset.sp.val = 0 ∧ (∃ (k : Fin 16) (q : Fin 17), k.val + 1 = 1 ∧ q.val = k.val) ∧
    ∃ (k : Fin 16) (q : Fin 17), k.val + 1 = 16 ∧ q.val = k.val :=
  ⟨rfl, ⟨0, 0, rfl, rfl⟩, 15, 15, rfl, rfl⟩

theorem witness_CallPushesTheReturnAddress :
    ({ State.reset with sp := 16 } : State).sp.val = 16 ∧
    (∃ (k : Fin 16) (q : Fin 17), k.val = 0 ∧ q.val = k.val + 1) ∧
    ∃ (k : Fin 16) (q : Fin 17), k.val = 15 ∧ q.val = k.val + 1 :=
  ⟨rfl, ⟨0, 1, rfl, rfl⟩, 15, 16, rfl, rfl⟩

theorem witness_JumpWithOffsetAddsV0 : Config.default.bnnnEnabled = false := rfl

theorem witness_CallsAndReturnsRoundTrip :
    List.replicate 16 (0x300 : BitVec 12) ≠ [] ∧
    State.reset.sp.val + (List.replicate 16 (0x300 : BitVec 12)).length ≤ 16 ∧
    ({ State.reset with sp := 15 } : State).sp.val + [(0x300 : BitVec 12)].length ≤ 16 := by decide

/-- The value 16, and the values 0 and 15 with the keys they name. -/
theorem witness_KeySkips :
    15 < ((State.reset.setReg 4 16).reg 4).toNat ∧
    (0 : KeyId).val = ((State.reset.setReg 4 0).reg 4).toNat ∧
    (15 : KeyId).val = ((State.reset.setReg 4 15).reg 4).toNat := by decide

theorem witness_ShiftsSetTheBitShiftedOut :
    (shiftingVy.reg 1 = if shiftingVy.cfg.shiftUsesVy = true then shiftingVy.reg 1 else shiftingVy.reg 0) ∧
    (State.reset.reg 0 =
      if State.reset.cfg.shiftUsesVy = true then State.reset.reg 1 else State.reset.reg 0) := by decide

theorem witness_AddIndexWrapsAt16Bits :
    State.reset.cfg.fx1eOverflowFlag = false ∧ flagging.cfg.fx1eOverflowFlag = true := by decide

/-- The empty sprite wherever I is, and a sprite ending at the last byte of memory. -/
theorem witness_DrawXorsTheSprite :
    ((0 : BitVec 4).toNat = 0 ∨ (State.reset.setI 0xFFFF).i.toNat + (0 : BitVec 4).toNat ≤ 0x1000) ∧
    ((15 : BitVec 4).toNat = 0 ∨ (State.reset.setI 0xFF1).i.toNat + (15 : BitVec 4).toNat ≤ 0x1000) := by
  decide

theorem witness_DrawOutsideMemoryFaults :
    1 ≤ (1 : BitVec 4).toNat ∧ 0x1000 ≤ (State.reset.setI 0x1000).i.toNat + (1 : BitVec 4).toNat - 1 ∧
    0x1000 ≤ (State.reset.setI 0xFF2).i.toNat + (15 : BitVec 4).toNat - 1 := by decide

theorem witness_DrawingTwiceRestoresTheGrid : ∃ g g' hit hit',
    raster blankFramebuffer 62 31 [0xC0, 0xFF] = (g, hit) ∧ raster g 62 31 [0xC0, 0xFF] = (g', hit') :=
  ⟨_, _, _, _, rfl, rfl⟩

theorem witness_KeyWaitInstruction :
    (State.reset.setKeyLatch 15 true).keyDown 15 = true ∧
    (∀ j, j < (15 : KeyId) → (State.reset.setKeyLatch 15 true).keyDown j = false) ∧
    ((State.reset.setKeyLatch 0 true).keyDown 0 = true) ∧ ∀ k, State.reset.keyDown k = false := by decide

theorem witness_GlyphAddressOfADigit :
    15 < ((State.reset.setReg 0 16).reg 0).toNat ∧ ((State.reset.setReg 0 15).reg 0).toNat ≤ 15 := by decide

theorem witness_DecimalDigitsAreStored :
    0x1000 ≤ (State.reset.setI 0xFFE).i.toNat + 2 ∧ (State.reset.setI 0xFFD).i.toNat + 2 < 0x1000 ∧
    Memory.wf State.reset.cfg State.reset.mem = true := by decide

/-- The hypotheses of the block store and the block load, all sixteen registers. -/
theorem witness_RegisterBlock :
    0x1000 ≤ (State.reset.setI 0xFF1).i.toNat + (15 : RegId).val ∧
    (State.reset.setI 0xFF0).i.toNat + (15 : RegId).val < 0x1000 ∧
    Memory.wf State.reset.cfg State.reset.mem = true := by decide

theorem witness_StoreThenLoadGivesTheRegistersBack :
    ∃ t, exec (.ldMemVx 15) (State.reset.setI 0xFF0) = .next t := ⟨_, rfl⟩

theorem witness_LoadCopiesTheImage :
    (∀ f, (Session.start Config.default).core.status ≠ .faulted f) ∧
    (Session.start Config.default).loadOpen = true ∧
    ({ core := State.reset, loadOpen := false } : Session).loadOpen = false ∧
    Config.wf (Session.start Config.default).core.cfg = true ∧
    0xE00 < (List.replicate 0xE01 (0 : Byte)).length ∧ (List.replicate 0xE00 (0 : Byte)).length ≤ 0xE00 ∧
    Memory.wf (Session.start Config.default).core.cfg (Session.start Config.default).core.mem = true :=
  ⟨nofun, rfl, rfl, (by decide), (by rw [List.length_replicate]; decide), (by rw [List.length_replicate]), rfl⟩

/-- The hypothesis of the ticks and of `SetKey`, in both live statuses. -/
theorem witness_LiveMachine :
    (∀ f, State.reset.status ≠ .faulted f) ∧ ∀ f, waiting.status ≠ .faulted f :=
  ⟨nofun, nofun⟩

theorem witness_HostEventsCommuteWithOtherInstructions :
    (∃ t, exec (.skp 4) State.reset = .next t) ∧
    (∀ x, Instr.skp 4 ≠ .ldVxDt x ∧ Instr.skp 4 ≠ .ldDtVx x ∧ Instr.skp 4 ≠ .ldStVx x) ∧
    (∃ t, exec (.ldVxDt 4) State.reset = .next t) ∧
    ∀ x, Instr.ldVxDt 4 ≠ .skp x ∧ Instr.ldVxDt 4 ≠ .sknp x ∧ Instr.ldVxDt 4 ≠ .ldVxK x :=
  ⟨⟨_, rfl⟩, fun _ => ⟨nofun, nofun, nofun⟩, ⟨_, rfl⟩, fun _ => ⟨nofun, nofun, nofun⟩⟩

theorem witness_AudioFollowsTheSoundTimer :
    (∃ t, step ((holding 0xF518).setReg 5 2) = .next t ∧
      t.audioActive ≠ ((holding 0xF518).setReg 5 2).audioActive) ∧
    ∃ t, tick (State.reset.setSt 1) = .next t ∧ t.audioActive ≠ (State.reset.setSt 1).audioActive :=
  ⟨⟨_, rfl, by decide⟩, _, rfl, by decide⟩

end Sys2Proof.Tests
end

section
/-! PROOFS. What each instruction does, said once: the state a completed instruction leaves, and the three ways
its execute stage can answer (R75, R171, R207). The frames and the invariant are read off these. -/

namespace Sys2Proof.Machine

/-! ## The fields after the optional updates and after a draw -/

section
variable (s : State) (n : Nat) (c : Bool) (r : Framebuffer × Bool)

@[simp] theorem State.advanceI_mem : (s.advanceI n).mem = s.mem := by rw [State.advanceI_eq]
@[simp] theorem State.advanceI_v : (s.advanceI n).v = s.v := by rw [State.advanceI_eq]
@[simp] theorem State.advanceI_pc : (s.advanceI n).pc = s.pc := by rw [State.advanceI_eq]
@[simp] theorem State.advanceI_npc : (s.advanceI n).npc = s.npc := by rw [State.advanceI_eq]; rfl
@[simp] theorem State.advanceI_stack : (s.advanceI n).stack = s.stack := by rw [State.advanceI_eq]
@[simp] theorem State.advanceI_sp : (s.advanceI n).sp = s.sp := by rw [State.advanceI_eq]
@[simp] theorem State.advanceI_dt : (s.advanceI n).dt = s.dt := by rw [State.advanceI_eq]
@[simp] theorem State.advanceI_st : (s.advanceI n).st = s.st := by rw [State.advanceI_eq]
@[simp] theorem State.advanceI_fb : (s.advanceI n).fb = s.fb := by rw [State.advanceI_eq]
@[simp] theorem State.advanceI_key : (s.advanceI n).key = s.key := by rw [State.advanceI_eq]
@[simp] theorem State.advanceI_status : (s.advanceI n).status = s.status := by rw [State.advanceI_eq]
@[simp] theorem State.advanceI_cfg : (s.advanceI n).cfg = s.cfg := by rw [State.advanceI_eq]
@[simp] theorem State.advanceI_reg (x : RegId) : (s.advanceI n).reg x = s.reg x := by
  rw [State.advanceI_eq]; rfl

/-- Without the option the block instructions leave `I` alone (R176, R177). -/
theorem State.advanceI_i_of_off (h : s.cfg.loadStoreIncrementsI = false) : (s.advanceI n).i = s.i := by
  simp [State.advanceI, h]

@[simp] theorem State.flagIfEnabled_mem : (s.flagIfEnabled c).mem = s.mem := by rw [State.flagIfEnabled_eq]
@[simp] theorem State.flagIfEnabled_i : (s.flagIfEnabled c).i = s.i := by rw [State.flagIfEnabled_eq]
@[simp] theorem State.flagIfEnabled_pc : (s.flagIfEnabled c).pc = s.pc := by rw [State.flagIfEnabled_eq]
@[simp] theorem State.flagIfEnabled_npc : (s.flagIfEnabled c).npc = s.npc := by
  rw [State.flagIfEnabled_eq]; rfl
@[simp] theorem State.flagIfEnabled_stack : (s.flagIfEnabled c).stack = s.stack := by
  rw [State.flagIfEnabled_eq]
@[simp] theorem State.flagIfEnabled_sp : (s.flagIfEnabled c).sp = s.sp := by rw [State.flagIfEnabled_eq]
@[simp] theorem State.flagIfEnabled_dt : (s.flagIfEnabled c).dt = s.dt := by rw [State.flagIfEnabled_eq]
@[simp] theorem State.flagIfEnabled_st : (s.flagIfEnabled c).st = s.st := by rw [State.flagIfEnabled_eq]
@[simp] theorem State.flagIfEnabled_fb : (s.flagIfEnabled c).fb = s.fb := by rw [State.flagIfEnabled_eq]
@[simp] theorem State.flagIfEnabled_key : (s.flagIfEnabled c).key = s.key := by rw [State.flagIfEnabled_eq]
@[simp] theorem State.flagIfEnabled_status : (s.flagIfEnabled c).status = s.status := by
  rw [State.flagIfEnabled_eq]
@[simp] theorem State.flagIfEnabled_cfg : (s.flagIfEnabled c).cfg = s.cfg := by rw [State.flagIfEnabled_eq]

theorem State.flagIfEnabled_reg (x : RegId) : (s.flagIfEnabled c).reg x =
    if s.cfg.fx1eOverflowFlag = true ∧ x = VF then flagByte c else s.reg x := by
  by_cases h : s.cfg.fx1eOverflowFlag = true <;> simp [State.flagIfEnabled, h, State.setReg_reg]

@[simp] theorem State.drawn_mem : (s.drawn r).mem = s.mem := rfl
@[simp] theorem State.drawn_i : (s.drawn r).i = s.i := rfl
@[simp] theorem State.drawn_pc : (s.drawn r).pc = s.npc := rfl
@[simp] theorem State.drawn_stack : (s.drawn r).stack = s.stack := rfl
@[simp] theorem State.drawn_sp : (s.drawn r).sp = s.sp := rfl
@[simp] theorem State.drawn_dt : (s.drawn r).dt = s.dt := rfl
@[simp] theorem State.drawn_st : (s.drawn r).st = s.st := rfl
@[simp] theorem State.drawn_fb : (s.drawn r).fb = r.1 := rfl
@[simp] theorem State.drawn_key : (s.drawn r).key = s.key := rfl
@[simp] theorem State.drawn_status : (s.drawn r).status = s.status := rfl
@[simp] theorem State.drawn_cfg : (s.drawn r).cfg = s.cfg := rfl

theorem State.drawn_reg (x : RegId) :
    (s.drawn r).reg x = if x = VF then flagByte r.2 else s.reg x := by
  simp [State.drawn, State.setReg_reg]

@[simp] theorem State.putBytes_npc (a : Nat) (bs : List Byte) : (s.putBytes a bs).npc = s.npc := by
  simp [State.npc]

@[simp] theorem State.putBytes_reg (a : Nat) (bs : List Byte) (x : RegId) :
    (s.putBytes a bs).reg x = s.reg x := by
  simp [State.reg]

end

/-! ## What an instruction can do -/

/-- Instruction `i`, run from `s`, completes in `t`: it neither faults nor waits. One constructor per
instruction, with the condition under which it completes. -/
inductive Completes (s : State) : Instr → State → Prop
  | cls : Completes s .cls (s.setFb blankFramebuffer).advance
  | ret (h : 0 < s.sp.val) : Completes s .ret
      { s with sp := ⟨s.sp.val - 1, by omega⟩, pc := s.stack[s.sp.val - 1]'(by omega) }
  | jp (nnn) : Completes s (.jp nnn) (s.setPc (addressOf nnn))
  | call (nnn) (h : s.sp.val < 16) : Completes s (.call nnn)
      { s with stack := s.stack.set s.sp.val s.npc, sp := ⟨s.sp.val + 1, by omega⟩, pc := addressOf nnn }
  | seImm (x nn) : Completes s (.seImm x nn) (s.skipIf (s.reg x == nn))
  | sneImm (x nn) : Completes s (.sneImm x nn) (s.skipIf (s.reg x != nn))
  | seReg (x y) : Completes s (.seReg x y) (s.skipIf (s.reg x == s.reg y))
  | ldImm (x nn) : Completes s (.ldImm x nn) (s.setReg x nn).advance
  | addImm (x nn) : Completes s (.addImm x nn) (s.setReg x (s.reg x + nn)).advance
  | ldReg (x y) : Completes s (.ldReg x y) (s.setReg x (s.reg y)).advance
  | orReg (x y) : Completes s (.orReg x y) (s.setReg x (s.reg x ||| s.reg y)).advance
  | andReg (x y) : Completes s (.andReg x y) (s.setReg x (s.reg x &&& s.reg y)).advance
  | xorReg (x y) : Completes s (.xorReg x y) (s.setReg x (s.reg x ^^^ s.reg y)).advance
  | addReg (x y) : Completes s (.addReg x y)
      (s.setRegFlag x (s.reg x + s.reg y) (carryOut (s.reg x) (s.reg y))).advance
  | subReg (x y) : Completes s (.subReg x y)
      (s.setRegFlag x (s.reg x - s.reg y) (noBorrow (s.reg x) (s.reg y))).advance
  | shr (x y) : Completes s (.shr x y)
      (s.setRegFlag x (s.shiftSource x y >>> 1) (shiftedOutRight (s.shiftSource x y))).advance
  | subn (x y) : Completes s (.subn x y)
      (s.setRegFlag x (s.reg y - s.reg x) (noBorrow (s.reg y) (s.reg x))).advance
  | shl (x y) : Completes s (.shl x y)
      (s.setRegFlag x (s.shiftSource x y <<< 1) (shiftedOutLeft (s.shiftSource x y))).advance
  | sneReg (x y) : Completes s (.sneReg x y) (s.skipIf (s.reg x != s.reg y))
  | ldI (nnn) : Completes s (.ldI nnn) (s.setI (addressOf nnn)).advance
  | jpV0 (nnn) : Completes s (.jpV0 nnn) (s.setPc (addressOf nnn + widen (s.reg 0)))
  | rnd (x nn) : Completes s (.rnd x nn) (s.setReg x (s.randomByte &&& nn)).countDraw.advance
  | drw (x y n) (h : n.toNat = 0 ∨ s.i.toNat + n.toNat ≤ memSize) : Completes s (.drw x y n)
      (s.drawn (raster s.fb (s.reg x).toNat (s.reg y).toNat (s.bytesAt s.i.toNat n.toNat)))
  | skp (x) (h : (s.reg x).toNat < 16) : Completes s (.skp x)
      (s.skipIf (s.keyDown ⟨(s.reg x).toNat, h⟩))
  | sknp (x) (h : (s.reg x).toNat < 16) : Completes s (.sknp x)
      (s.skipIf (!s.keyDown ⟨(s.reg x).toNat, h⟩))
  | ldVxDt (x) : Completes s (.ldVxDt x) (s.setReg x s.dt).advance
  | ldVxK (x k) (h : s.lowestKey = some k) : Completes s (.ldVxK x) (s.setReg x (keyByte k)).advance
  | ldDtVx (x) : Completes s (.ldDtVx x) (s.setDt (s.reg x)).advance
  | ldStVx (x) : Completes s (.ldStVx x) (s.setSt (s.reg x)).advance
  | addI (x) : Completes s (.addI x)
      ((s.setI (s.i + widen (s.reg x))).flagIfEnabled (indexOverflow s.i (s.reg x))).advance
  | ldF (x) (h : (s.reg x).toNat < 16) : Completes s (.ldF x)
      (s.setI (glyphAddress s.cfg (s.reg x))).advance
  | ldB (x) (h : s.i.toNat + 3 ≤ memSize) : Completes s (.ldB x)
      (s.putBytes s.i.toNat (decimalDigits (s.reg x))).advance
  | ldMemVx (x) (h : s.i.toNat + (x.val + 1) ≤ memSize) : Completes s (.ldMemVx x)
      ((s.putBytes s.i.toNat (s.regBlock x)).advanceI (x.val + 1)).advance
  | ldVxMem (x) (h : s.i.toNat + (x.val + 1) ≤ memSize) : Completes s (.ldVxMem x)
      ((s.setRegBlock (s.bytesAt s.i.toNat (x.val + 1))).advanceI (x.val + 1)).advance

/-- Every way the execute stage answers a next state: a fault of the instruction, the wait of `FX0A` with all
keys up, or the completed instruction. -/
theorem exec_outcomes {i : Instr} {s t : State} (h : exec i s = .next t) :
    (∃ f, canRaise i f ∧ t = s.raise f) ∨
    (∃ x, i = .ldVxK x ∧ s.lowestKey = none ∧ t = s.setStatus (.awaitingKey x)) ∨
    Completes s i t := by
  cases i with
  | ret =>
    obtain ⟨-, rfl⟩ | ⟨hsp, rfl⟩ := execRet_eq_next.1 h
    · exact .inl ⟨.stackUnderflow, trivial, rfl⟩
    · exact .inr (.inr (.ret hsp))
  | call nnn =>
    obtain ⟨-, rfl⟩ | ⟨hsp, rfl⟩ := execCall_eq_next.1 h
    · exact .inl ⟨.stackOverflow, trivial, rfl⟩
    · exact .inr (.inr (.call nnn hsp))
  | drw x y n =>
    obtain ⟨-, rfl⟩ | ⟨hfit, rfl⟩ := execDrw_eq_next.1 h
    · exact .inl ⟨.memoryOutOfBounds _, trivial, rfl⟩
    · exact .inr (.inr (.drw x y n hfit))
  | skp x =>
    obtain ⟨-, rfl⟩ | ⟨hkey, rfl⟩ := keySkip_eq_next (c := fun down => down) |>.1 h
    · exact .inl ⟨.operandOutOfRange _, trivial, rfl⟩
    · exact .inr (.inr (.skp x hkey))
  | sknp x =>
    obtain ⟨-, rfl⟩ | ⟨hkey, rfl⟩ := keySkip_eq_next (c := fun down => !down) |>.1 h
    · exact .inl ⟨.operandOutOfRange _, trivial, rfl⟩
    · exact .inr (.inr (.sknp x hkey))
  | ldVxK x =>
    obtain ⟨hkey, rfl⟩ | ⟨k, hkey, rfl⟩ := execLdVxK_eq_next.1 h
    · exact .inr (.inl ⟨x, rfl, hkey, rfl⟩)
    · exact .inr (.inr (.ldVxK x k hkey))
  | ldF x =>
    obtain ⟨-, rfl⟩ | ⟨hdigit, rfl⟩ := execLdF_eq_next.1 h
    · exact .inl ⟨.operandOutOfRange _, trivial, rfl⟩
    · exact .inr (.inr (.ldF x hdigit))
  | ldB x =>
    obtain ⟨-, rfl⟩ | ⟨hfit, rfl⟩ := execLdB_eq_next.1 h
    · exact .inl ⟨.memoryOutOfBounds _, trivial, rfl⟩
    · exact .inr (.inr (.ldB x hfit))
  | ldMemVx x =>
    obtain ⟨-, rfl⟩ | ⟨hfit, rfl⟩ := execLdMemVx_eq_next.1 h
    · exact .inl ⟨.memoryOutOfBounds _, trivial, rfl⟩
    · exact .inr (.inr (.ldMemVx x hfit))
  | ldVxMem x =>
    obtain ⟨-, rfl⟩ | ⟨hfit, rfl⟩ := execLdVxMem_eq_next.1 h
    · exact .inl ⟨.memoryOutOfBounds _, trivial, rfl⟩
    · exact .inr (.inr (.ldVxMem x hfit))
  | _ =>
    cases h
    exact .inr (.inr (by constructor))

/-! ## What a completed instruction leaves unchanged -/

namespace Completes

variable {s t : State} {i : Instr}

theorem cfg (h : Completes s i t) : t.cfg = s.cfg := by cases h with | _ => simp

theorem key (h : Completes s i t) : t.key = s.key := by cases h with | _ => simp

theorem status (h : Completes s i t) : t.status = s.status := by cases h with | _ => simp

/-- Only `2NNN` writes a stack entry (R29). -/
theorem stack (h : Completes s i t) (hi : ∀ nnn, i ≠ .call nnn) : t.stack = s.stack := by
  cases h with
  | call nnn _ => exact absurd rfl (hi nnn)
  | _ => simp

/-- Only `2NNN` and `00EE` move `SP` (R29). -/
theorem sp (h : Completes s i t) (hc : ∀ nnn, i ≠ .call nnn) (hr : i ≠ .ret) : t.sp = s.sp := by
  cases h with
  | call nnn _ => exact absurd rfl (hc nnn)
  | ret _ => exact absurd rfl hr
  | _ => simp

/-- A push writes above the live entries (R29). -/
theorem liveEntry (h : Completes s i t) (k : Fin 16) (hk : k.val < s.sp.val) :
    t.stack[k.val] = s.stack[k.val] := by
  cases h with
  | call nnn hsp => exact Vector.getElem_set_ne hsp k.isLt (by omega)
  | _ => simp

/-- Only `ANNN`, `FX1E`, `FX29` and, with the option, the block instructions write `I` (R24). -/
theorem index (h : Completes s i t) (hldI : ∀ nnn, i ≠ .ldI nnn) (haddI : ∀ x, i ≠ .addI x)
    (hldF : ∀ x, i ≠ .ldF x)
    (hblock : s.cfg.loadStoreIncrementsI = false ∨ ∀ x, i ≠ .ldMemVx x ∧ i ≠ .ldVxMem x) :
    t.i = s.i := by
  cases h with
  | ldI nnn => exact absurd rfl (hldI nnn)
  | addI x => exact absurd rfl (haddI x)
  | ldF x _ => exact absurd rfl (hldF x)
  | ldMemVx x _ =>
    have hoff := hblock.resolve_right fun hne => (hne x).1 rfl
    simp [State.advanceI_i_of_off, hoff]
  | ldVxMem x _ =>
    have hoff := hblock.resolve_right fun hne => (hne x).2 rfl
    simp [State.advanceI_i_of_off, hoff]
  | _ => simp

theorem dt (h : Completes s i t) : t.dt = s.dt ∨ ∃ x, i = .ldDtVx x ∧ t.dt = s.reg x := by
  cases h with
  | ldDtVx x => exact .inr ⟨x, rfl, rfl⟩
  | _ => simp

theorem st (h : Completes s i t) : t.st = s.st ∨ ∃ x, i = .ldStVx x ∧ t.st = s.reg x := by
  cases h with
  | ldStVx x => exact .inr ⟨x, rfl, rfl⟩
  | _ => simp

/-- A store lands inside memory and keeps its canonical form. -/
theorem memory_wf (h : Completes s i t) (hm : Memory.wf s.cfg s.mem = true) :
    Memory.wf t.cfg t.mem = true := by
  cases h with
  | ldB x hfit => exact State.putBytes_wf hm hfit
  | ldMemVx x hfit =>
    simpa using State.putBytes_wf (bs := s.regBlock x) hm (by simpa using hfit)
  | _ => simpa using hm

/-- The registers an instruction neither names as destination nor writes as flag (R21, R23). -/
theorem reg (h : Completes s i t) {r : RegId} (hd : ¬ destinations i r)
    (hf : r = 15 → ¬ writesFlag s.cfg i) : t.reg r = s.reg r := by
  cases h with
  | addReg x y | subReg x y | shr x y | subn x y | shl x y =>
    have hVF : r ≠ VF := fun hr => hf hr trivial
    have hx : r ≠ x := hd
    simp [State.setRegFlag_reg, hVF, hx]
  | drw x y n _ =>
    have hVF : r ≠ VF := fun hr => hf hr trivial
    simp [State.drawn_reg, hVF]
  | addI x =>
    have hoff : ¬ (s.cfg.fx1eOverflowFlag = true ∧ r = VF) := fun ⟨hon, hr⟩ => hf hr hon
    simp [State.flagIfEnabled_reg, hoff]
  | ldVxMem x _ =>
    have hx : x.val + 1 ≤ r.val := Nat.lt_of_not_le hd
    have hlen : (s.bytesAt s.i.toNat (x.val + 1)).length ≤ r.val := by rwa [State.bytesAt_length]
    simp [State.setRegBlock_reg, hlen]
  | ldImm x _ | addImm x _ | ldReg x _ | orReg x _ | andReg x _ | xorReg x _ | rnd x _ | ldVxDt x
  | ldVxK x _ _ =>
    have hx : r ≠ x := hd
    simp [State.setReg_reg, hx]
  | ret _ | call _ _ => rfl
  | _ => simp

end Completes

end Sys2Proof.Machine
end

section
/-! PROOFS. The invariant (R27, R36, R40): reset meets it, every step and every event of the host keep it. -/

namespace Sys2Proof.Machine

/-! ## The invariant as a property of the state -/

/-- The invariant speaks of memory, the configuration, `PC`, the stack and `STATUS` only. -/
theorem State.Inv.congr {s t : State} (h : s.Inv) (hcfg : t.cfg = s.cfg) (hmem : t.mem = s.mem)
    (hpc : t.pc = s.pc) (hstack : t.stack = s.stack) (hsp : t.sp = s.sp)
    (hwait : ∀ x, t.status = .awaitingKey x → s.fetchDecode = .ok (.ldVxK x)) : t.Inv where
  config := hcfg ▸ h.config
  memory := by rw [hcfg, hmem]; exact h.memory
  pcRange := hpc ▸ h.pcRange
  liveEntries := by rw [hstack, hsp]; exact h.liveEntries
  waiting x hx := (State.fetchDecode_congr hmem hcfg hpc).trans (hwait x hx)

theorem State.Inv.raise {s : State} (h : s.Inv) (f : Fault) : (s.raise f).Inv :=
  h.congr rfl rfl rfl rfl rfl nofun

theorem State.resetWith_inv {cfg : Config} (h : cfg.wf = true) : (State.resetWith cfg).Inv where
  config := h
  memory := State.resetWith_memory_wf cfg
  pcRange := (by decide : pcReset.toNat ≤ 0x10FE)
  liveEntries k hk := absurd hk (Nat.not_lt_zero _)
  waiting _ hx := nomatch hx

/-- `Reset` keeps only the count of random bytes, of which the invariant does not speak. -/
theorem State.resetAgain_inv {s : State} (h : s.cfg.wf = true) : s.resetAgain.Inv :=
  (State.resetWith_inv h).congr rfl rfl rfl rfl rfl nofun

/-! ## The step -/

/-- Where a word can be fetched, `npc` is in 0x002..0x1000. -/
theorem State.npc_mem_range {s : State} (h : s.pc.toNat + 1 < memSize) :
    2 ≤ s.npc.toNat ∧ s.npc.toNat ≤ 0x1000 := by
  rw [State.npc_toNat h]
  exact ⟨Nat.le_add_left .., Nat.succ_le_of_lt h⟩

/-- `PC` stays in 0..0x10FE: the largest target is that of `BNNN`, 0xFFF + 0xFF (R27). -/
theorem Completes.pc_le {s t : State} {i : Instr} (h : Completes s i t) (hs : s.Inv)
    (hpc : s.pc.toNat + 1 < memSize) : t.pc.toNat ≤ 0x10FE := by
  have hnpc := (State.npc_mem_range hpc).2
  have hskip : ∀ c, (s.skipIf c).pc.toNat ≤ 0x10FE := by
    intro c
    cases c <;> simp [BitVec.toNat_add] <;> omega
  cases h with
  | ret hsp =>
    have hlive := hs.liveEntries ⟨s.sp.val - 1, by omega⟩ (Nat.sub_lt hsp Nat.one_pos)
    exact hlive.2.trans (by omega)
  | jp nnn | call nnn _ =>
    have := nnn.isLt
    exact (addressOf_toNat nnn).trans_le (by omega)
  | jpV0 nnn =>
    have := nnn.isLt
    have := (s.reg 0).isLt
    simp [BitVec.toNat_add]
    omega
  | seImm _ _ | sneImm _ _ | seReg _ _ | sneReg _ _ | skp _ _ | sknp _ _ => exact hskip _
  | _ => simpa using hnpc.trans (by omega)

/-- A live entry is an old one or the `npc` that `2NNN` pushed, which is in 2..0x1000 (R40). -/
theorem Completes.liveEntries {s t : State} {i : Instr} (h : Completes s i t) (hs : s.Inv)
    (hpc : s.pc.toNat + 1 < memSize) (k : Fin 16) (hk : k.val < t.sp.val) :
    2 ≤ (t.stack[k.val]).toNat ∧ (t.stack[k.val]).toNat ≤ 0x1000 := by
  by_cases hold : k.val < s.sp.val
  · rw [h.liveEntry k hold]
    exact hs.liveEntries k hold
  · cases h with
    | ret hsp => exact absurd (Nat.lt_of_lt_of_le hk (Nat.sub_le _ _)) hold
    | call nnn hsp =>
      have htop : s.sp.val = k.val := by
        have : k.val < s.sp.val + 1 := hk
        omega
      simpa [htop] using State.npc_mem_range hpc
    | _ => exact absurd (by simpa using hk) hold

theorem Completes.inv {s t : State} {i : Instr} (h : Completes s i t) (hs : s.Inv)
    (hrun : s.status = .running) (hpc : s.pc.toNat + 1 < memSize) : t.Inv where
  config := h.cfg ▸ hs.config
  memory := h.memory_wf hs.memory
  pcRange := h.pc_le hs hpc
  liveEntries := h.liveEntries hs hpc
  waiting x hx := by
    rw [h.status, hrun] at hx
    cases hx

theorem exec_keeps_inv {i : Instr} {s t : State} (hs : s.Inv) (hrun : s.status = .running)
    (hf : s.fetchDecode = .ok i) (h : exec i s = .next t) : t.Inv := by
  obtain ⟨f, -, rfl⟩ | ⟨x, rfl, -, rfl⟩ | hc := exec_outcomes h
  · exact hs.raise f
  · refine hs.congr rfl rfl rfl rfl rfl fun y hy => ?_
    cases hy
    exact hf
  · exact hc.inv hs hrun (State.fetchDecode_eq_ok.1 hf).1

theorem waitStep_keeps_inv {x : RegId} {s t : State} (hs : s.Inv) (hwait : s.status = .awaitingKey x)
    (h : waitStep x s = .next t) : t.Inv := by
  obtain ⟨-, rfl⟩ | ⟨k, hkey, rfl⟩ := waitStep_eq_next.1 h
  · exact hs
  · have hpc := (State.fetchDecode_eq_ok.1 (hs.waiting x hwait)).1
    have hrun : (s.setStatus .running).Inv := hs.congr rfl rfl rfl rfl rfl nofun
    exact (Completes.ldVxK (s := s.setStatus .running) x k hkey).inv hrun rfl hpc

/-- Settles O18: a step is a fetch fault, an instruction or a wait, and each keeps the invariant. -/
theorem stepKeepsInvariant : Obligations.StepKeepsInvariant := by
  intro s t hs h
  obtain ⟨-, f, -, rfl⟩ | ⟨hrun, i, hf, he⟩ | ⟨x, hwait, hw⟩ := step_eq_next.1 h
  · exact hs.raise f
  · exact exec_keeps_inv hs hrun hf he
  · exact waitStep_keeps_inv hs hwait hw

/-! ## The events of the host -/

/-- An event of the core closes `Load`. -/
theorem Session.after_eq_next {r : Result} {h : Session} : Session.after r = .next h ↔
    ∃ s, r = .next s ∧ h = { core := s, loadOpen := false } := by
  cases r <;> simp [Session.after, eq_comm]

/-- `Load` is enabled on a live machine right after `Reset` only. -/
theorem Session.load_eq_next {bytes : List Byte} {h h' : Session} : h.load bytes = .next h' ↔
    (∀ f, h.core.status ≠ .faulted f) ∧ h.loadOpen = true ∧
      ∃ s, Machine.load bytes h.core = .next s ∧ h' = { core := s, loadOpen := false } := by
  cases hs : h.core.status <;> cases ho : h.loadOpen <;>
    simp [Session.load, hs, ho, Session.after_eq_next]

/-- An event of the core keeps the session's invariant if it keeps the machine's. -/
theorem Session.Inv.of_core {s : State} (h : s.Inv) :
    ({ core := s, loadOpen := false } : Session).Inv where
  core := h
  fresh := nofun

theorem Session.inv_resetAgain {s : State} (h : s.cfg.wf = true) :
    ({ core := s.resetAgain, loadOpen := true } : Session).Inv where
  core := State.resetAgain_inv h
  fresh _ := rfl

/-- The image goes in above the font and below 0x1000, on a machine that runs. -/
theorem load_keeps_inv {s t : State} {bytes : List Byte} (hs : s.Inv) (hrun : s.status = .running)
    (h : load bytes s = .next t) : t.Inv := by
  obtain ⟨-, rfl⟩ | ⟨hlen, rfl⟩ := load_eq_next.1 h
  · exact hs.raise _
  · have hfit : loadBase + bytes.length ≤ memSize := Nat.add_le_add_left hlen loadBase
    exact {
      config := by simpa using hs.config
      memory := State.putBytes_wf hs.memory hfit
      pcRange := by simpa using hs.pcRange
      liveEntries := by simpa using hs.liveEntries
      waiting := by simp [hrun] }

/-- Settles O19: event by event. -/
theorem eventsKeepInvariant : Obligations.EventsKeepInvariant := by
  intro e h h' hinv hh
  have hcore := hinv.core
  cases e with
  | reset =>
    cases hh
    exact Session.inv_resetAgain hcore.config
  | load bytes =>
    obtain ⟨-, hopen, s, hs, rfl⟩ := Session.load_eq_next.1 hh
    have hrun : h.core.status = .running := by rw [hinv.fresh hopen]; rfl
    exact .of_core (load_keeps_inv hcore hrun hs)
  | step =>
    obtain ⟨s, hs, rfl⟩ := Session.after_eq_next.1 hh
    exact .of_core (stepKeepsInvariant _ _ hcore hs)
  | tick =>
    obtain ⟨s, hs, rfl⟩ := Session.after_eq_next.1 hh
    obtain ⟨-, rfl⟩ := whenLive_eq_next.1 hs
    exact .of_core (hcore.congr rfl rfl rfl rfl rfl hcore.waiting)
  | setKey k pressed =>
    obtain ⟨s, hs, rfl⟩ := Session.after_eq_next.1 hh
    obtain ⟨-, rfl⟩ := whenLive_eq_next.1 hs
    exact .of_core (hcore.congr rfl rfl rfl rfl rfl hcore.waiting)

/-! ## Reset and the reachable sessions -/

theorem Session.start_inv {cfg : Config} (h : cfg.wf = true) : (Session.start cfg).Inv where
  core := State.resetWith_inv h
  fresh _ := rfl

theorem defaultConfig_wf : Config.default.wf = true := by decide

/-- Settles O17: the reset state has no live entry, does not wait, and lists no byte of memory. -/
theorem resetMeetsInvariant : Obligations.ResetMeetsInvariant :=
  ⟨defaultConfig_wf, fun _ => Session.start_inv, State.resetWith_inv defaultConfig_wf⟩

/-- A schedule keeps what each of its events keeps. -/
theorem runEvents_keeps_inv (es : List Event) {h h' : Session} (hinv : h.Inv)
    (hr : runEvents es h = .next h') : h'.Inv := by
  induction es generalizing h with
  | nil =>
    cases hr
    exact hinv
  | cons e es ih =>
    cases he : handle e h with
    | next g =>
      rw [runEvents, he] at hr
      exact ih (eventsKeepInvariant e h g hinv he) hr
    | fault f => simp [runEvents, he] at hr
    | refused q => simp [runEvents, he] at hr

/-- Settles O20, by induction on the schedule. -/
theorem reachableSessionsMeetInvariant : Obligations.ReachableSessionsMeetInvariant := by
  rintro h ⟨cfg, es, hcfg, hr⟩
  exact runEvents_keeps_inv es (Session.start_inv hcfg) hr

/-! ## What `Reset` leaves -/

theorem resetByte_font (cfg : Config) (k : Fin 80) :
    resetByte cfg (cfg.fontBase.toNat + k.val) = cfg.fontData[k.val] := by
  simp [resetByte]

theorem resetByte_outside (cfg : Config) {a : Nat}
    (h : a < cfg.fontBase.toNat ∨ cfg.fontBase.toNat + 80 ≤ a) : resetByte cfg a = 0 := by
  rcases h with h | h
  · exact if_neg (by omega)
  · have : 80 ≤ a - cfg.fontBase.toNat := by omega
    simp [resetByte, this]

theorem pixelAt_blankFramebuffer (px py : Nat) : pixelAt blankFramebuffer px py = false := by
  simp [pixelAt, blankFramebuffer]

/-- Settles O55: the values stand in `State.resetWith`; memory reads as its reset contents. -/
theorem resetLeavesTheResetValues : Obligations.ResetLeavesTheResetValues := by
  intro h
  refine ⟨h.core.resetAgain, rfl, rfl, rfl, resetByte_font _, fun _ => resetByte_outside _, ?_⟩
  refine ⟨fun r => ?_, rfl, rfl, fun k => ?_, rfl, rfl, rfl, pixelAt_blankFramebuffer, fun k => ?_,
    rfl, rfl⟩
  · exact Vector.getElem_replicate r.isLt
  · exact Vector.getElem_replicate k.isLt
  · exact Vector.getElem_replicate k.isLt

end Sys2Proof.Machine
end

section
/-! PROOFS. The status, the flag, `PC` and the frames over all instructions (R21 to R36). -/

namespace Sys2Proof.Machine

/-! ## Status (R35, R36) -/

theorem State.setStatus_self {s : State} {q : Status} (h : s.status = q) :
    (s.setStatus .running).setStatus q = s := by
  subst h
  rfl

/-- Settles O11: the waiting step of `x` is the execute stage of the `FX0A` of `x` that stands at `PC`. -/
theorem waitingEqualsFetchingAgain : Obligations.WaitingEqualsFetchingAgain := by
  intro s x hs hwait
  change step s = step (s.setStatus .running)
  have hf : (s.setStatus .running).fetchDecode = .ok (.ldVxK x) := by
    rw [State.setStatus_fetchDecode]
    exact hs.waiting x hwait
  have hrefetch : step (s.setStatus .running) = execLdVxK x (s.setStatus .running) :=
    step_of_running rfl hf
  have hwaits : step s = waitStep x s := by simp only [step, hwait]
  rw [hrefetch, hwaits]
  cases hkey : s.lowestKey with
  | none =>
    have hrekey : (s.setStatus .running).lowestKey = none := hkey
    rw [waitStep_eq_next.2 (.inl ⟨hkey, rfl⟩), execLdVxK_eq_next.2 (.inl ⟨hrekey, rfl⟩),
      State.setStatus_self hwait]
  | some k =>
    have hrekey : (s.setStatus .running).lowestKey = some k := hkey
    rw [waitStep_eq_next.2 (.inr ⟨k, hkey, rfl⟩), execLdVxK_eq_next.2 (.inr ⟨k, hrekey, rfl⟩)]
    rfl

/-- Settles O12, by the ways a step and an instruction can answer. -/
theorem statusTransitionsOfAStep : Obligations.StatusTransitionsOfAStep := by
  intro s t h
  obtain ⟨hrun, f, -, rfl⟩ | ⟨hrun, i, hf, he⟩ | ⟨x, hwait, hw⟩ := step_eq_next.1 h
  · exact .inl ⟨hrun, .inr (.inl ⟨f, rfl⟩)⟩
  · refine .inl ⟨hrun, ?_⟩
    obtain ⟨f, -, rfl⟩ | ⟨x, rfl, hkey, rfl⟩ | hc := exec_outcomes he
    · exact .inr (.inl ⟨f, rfl⟩)
    · exact .inr (.inr ⟨x, rfl, hf, State.lowestKey_eq_none.1 hkey⟩)
    · exact .inl (hc.status.trans hrun)
  · refine .inr ⟨x, hwait, ?_⟩
    obtain ⟨hkey, rfl⟩ | ⟨k, hkey, rfl⟩ := waitStep_eq_next.1 hw
    · exact .inl ⟨hwait, State.lowestKey_eq_none.1 hkey⟩
    · exact .inr ⟨rfl, k, (State.lowestKey_eq_some.1 hkey).1⟩

/-- From Running, an instruction that leaves the machine running has completed. -/
theorem completes_of_running {i : Instr} {s t : State} (h : exec i s = .next t)
    (ht : t.status = .running) : Completes s i t := by
  obtain ⟨f, -, rfl⟩ | ⟨x, -, -, rfl⟩ | hc := exec_outcomes h
  · cases ht
  · cases ht
  · exact hc

/-! ## Registers and the flag (R22, R23) -/

/-- Settles O22: a fault and a wait write no register, and a completed instruction only those it names. -/
theorem registersChangeOnlyAtDestinations : Obligations.RegistersChangeOnlyAtDestinations := by
  intro i s t r h hd hf
  obtain ⟨f, -, rfl⟩ | ⟨x, -, -, rfl⟩ | hc := exec_outcomes h
  · rfl
  · rfl
  · exact hc.reg hd hf

/-- The flag an instruction writes to VF when it completes: the table of R23. -/
def flagResult (s : State) : Instr → Option Bool
  | .addReg x y => some (carryOut (s.reg x) (s.reg y))
  | .subReg x y => some (noBorrow (s.reg x) (s.reg y))
  | .subn x y => some (noBorrow (s.reg y) (s.reg x))
  | .shr x y => some (shiftedOutRight (s.shiftSource x y))
  | .shl x y => some (shiftedOutLeft (s.shiftSource x y))
  | .drw x y n =>
    some (raster s.fb (s.reg x).toNat (s.reg y).toNat (s.bytesAt s.i.toNat n.toNat)).2
  | .addI x => if s.cfg.fx1eOverflowFlag then some (indexOverflow s.i (s.reg x)) else none
  | _ => none

theorem writesFlag_iff_flagResult {s : State} {i : Instr} :
    writesFlag s.cfg i ↔ ∃ c, flagResult s i = some c := by
  cases i <;> simp [writesFlag, flagResult]

/-- The flag is written last, so VF holds it whatever the destination (R131). -/
theorem Completes.vf {s t : State} {i : Instr} (h : Completes s i t) {c : Bool}
    (hc : flagResult s i = some c) : t.reg VF = flagByte c := by
  cases h with
  | addReg x y | subReg x y | shr x y | subn x y | shl x y =>
    cases hc
    simp [State.setRegFlag_reg]
  | drw x y n _ =>
    cases hc
    simp [State.drawn_reg]
  | addI x =>
    obtain ⟨hon, rfl⟩ : s.cfg.fx1eOverflowFlag = true ∧ indexOverflow s.i (s.reg x) = c := by
      simpa [flagResult] using hc
    simp [State.flagIfEnabled_reg, hon]
  | _ => cases hc

theorem flagByte_decide (p : Prop) [Decidable p] : flagByte (decide p) = flagOf p := by
  simp [flagByte, flagOf]

theorem flagByte_eq_one {c : Bool} : flagByte c = 1 ↔ c = true := by
  cases c <;> decide

theorem flagByte_eq_zero_or_one (c : Bool) : flagByte c = 0 ∨ flagByte c = 1 := by
  cases c <;> decide

theorem shiftedOutRight_eq (a : Byte) : shiftedOutRight a = decide (a.toNat % 2 = 1) := by
  simp [shiftedOutRight, BitVec.getLsbD, Nat.testBit_zero]

theorem shiftedOutLeft_eq (a : Byte) : shiftedOutLeft a = decide (a.toNat / 128 = 1) := by
  have := a.isLt
  simp only [shiftedOutLeft, BitVec.getLsbD, Nat.testBit_eq_decide_div_mod_eq]
  congr 1
  apply propext
  omega

/-- A draw collides exactly when it unsets a pixel: XOR with a 1 bit of the sprite is the only way (R154). -/
theorem raster_hit_iff_unsets {fb : Framebuffer} {x0 y0 : Nat} {bs : List Byte} :
    (raster fb x0 y0 bs).2 = true ↔
      ∃ px py, pixelAt fb px py = true ∧ pixelAt (raster fb x0 y0 bs).1 px py = false := by
  rw [raster_hit]
  refine exists_congr fun px => exists_congr fun py => and_congr_right fun hp => ?_
  have hgrid : inGrid px py = true := decide_eq_true (pixelAt_eq_true hp)
  simp [pixelAt_raster, hp, hgrid]

/-- Settles O21: the flag is `flagResult`, and where there is none VF is one more register of the frame. -/
theorem flagIsWrittenByTheTableOnly : Obligations.FlagIsWrittenByTheTableOnly := by
  intro i s t _ h ht
  have hc := completes_of_running h ht
  refine ⟨fun hw => ?_, fun hw hd => hc.reg hd fun _ => hw, ?_⟩
  · obtain ⟨c, hflag⟩ := writesFlag_iff_flagResult.1 hw
    rw [show t.reg 15 = flagByte c from hc.vf hflag]
    exact flagByte_eq_zero_or_one c
  · cases i with
    | addReg x y | subReg x y | subn x y => exact (hc.vf rfl).trans (flagByte_decide _)
    | shr x y => exact (hc.vf rfl).trans (shiftedOutRight_eq _ ▸ flagByte_decide _)
    | shl x y => exact (hc.vf rfl).trans (shiftedOutLeft_eq _ ▸ flagByte_decide _)
    | drw x y n =>
      have hvf := hc.vf rfl
      cases hc
      change State.reg _ VF = 1 ↔ _
      rw [hvf, flagByte_eq_one, State.drawn_fb]
      exact raster_hit_iff_unsets
    | addI x =>
      intro hon
      exact (hc.vf (if_pos hon)).trans (flagByte_decide _)
    | _ => trivial

/-! ## The framebuffer (R31, R157) -/

/-- A sprite of `n` rows has bits only in its 8 columns and `n` rows. -/
theorem spriteAt_outside {bs : List Byte} {x0 y0 px py : Nat}
    (h : ¬ (x0 ≤ px ∧ px < x0 + 8 ∧ y0 ≤ py ∧ py < y0 + bs.length)) :
    spriteAt bs x0 y0 px py = false := by
  by_cases hrow : py - y0 < bs.length
  · have : ¬ (x0 ≤ px ∧ px < x0 + 8 ∧ y0 ≤ py) := by omega
    simp only [spriteAt, decide_eq_false this, Bool.false_and]
  · have : bs.length ≤ py - y0 := by omega
    simp [spriteAt, spriteBit, this]

/-- A draw leaves a pixel outside the sprite's rectangle as it was (R157(c)). -/
theorem pixelAt_raster_outside (fb : Framebuffer) {bs : List Byte} {x0 y0 px py : Nat}
    (h : ¬ (x0 ≤ px ∧ px ≤ min (x0 + 7) 63 ∧ y0 ≤ py ∧ py + 1 ≤ min (y0 + bs.length) 32)) :
    pixelAt (raster fb x0 y0 bs).1 px py = pixelAt fb px py := by
  have hbit : (inGrid px py && spriteAt bs x0 y0 px py) = false := by
    by_cases hgrid : px < 64 ∧ py < 32
    · rw [spriteAt_outside (by omega), Bool.and_false]
    · simp only [inGrid, decide_eq_false hgrid, Bool.false_and]
  rw [pixelAt_raster, hbit, Bool.xor_false]

/-- Only `00E0` and `DXYN` write the framebuffer (R31). -/
theorem Completes.fb {s t : State} {i : Instr} (h : Completes s i t) (hcls : i ≠ .cls)
    (hdrw : ∀ x y n, i ≠ .drw x y n) : t.fb = s.fb := by
  cases h with
  | cls => exact absurd rfl hcls
  | drw x y n _ => exact absurd rfl (hdrw x y n)
  | _ => simp

theorem exec_fb {i : Instr} {s t : State} (h : exec i s = .next t) (hcls : i ≠ .cls)
    (hdrw : ∀ x y n, i ≠ .drw x y n) : t.fb = s.fb := by
  obtain ⟨f, -, rfl⟩ | ⟨x, -, -, rfl⟩ | hc := exec_outcomes h
  · rfl
  · rfl
  · exact hc.fb hcls hdrw

/-- Settles O24: the clear, the draw inside its rectangle, and the frame of the others. -/
theorem framebufferChangesOnlyByClearAndDraw : Obligations.FramebufferChangesOnlyByClearAndDraw := by
  intro i s t px py h
  cases i with
  | cls =>
    cases h
    exact pixelAt_blankFramebuffer px py
  | drw x y n =>
    intro hout
    obtain ⟨-, rfl⟩ | ⟨-, rfl⟩ := execDrw_eq_next.1 h
    · rfl
    · exact pixelAt_raster_outside s.fb (by rwa [State.bytesAt_length])
  | _ => exact exec_fb h nofun nofun

/-! ## Stack, index, timers and keys (R24, R29, R30, R32) -/

/-- Settles O25: a fault and a wait write none of these; the rest is the frame of a completed instruction. -/
theorem stackAndIndexChangeOnlyByTheirInstructions :
    Obligations.StackAndIndexChangeOnlyByTheirInstructions := by
  intro i s t h
  obtain ⟨f, -, rfl⟩ | ⟨x, -, -, rfl⟩ | hc := exec_outcomes h
  · exact ⟨fun _ => rfl, fun _ _ => rfl, fun _ _ => rfl, fun _ _ _ _ => rfl⟩
  · exact ⟨fun _ => rfl, fun _ _ => rfl, fun _ _ => rfl, fun _ _ _ _ => rfl⟩
  · exact ⟨hc.stack, hc.sp, hc.liveEntry, hc.index⟩

/-- Settles O26: of the three ways a step goes, only a completed `FX15` or `FX18` writes a timer. -/
theorem stepNeverCountsTimersOrMovesKeys : Obligations.StepNeverCountsTimersOrMovesKeys := by
  intro s t h
  obtain ⟨-, f, -, rfl⟩ | ⟨-, i, hf, he⟩ | ⟨x, -, hw⟩ := step_eq_next.1 h
  · exact ⟨rfl, rfl, .inl rfl, .inl rfl⟩
  · obtain ⟨f, -, rfl⟩ | ⟨x, -, -, rfl⟩ | hc := exec_outcomes he
    · exact ⟨rfl, rfl, .inl rfl, .inl rfl⟩
    · exact ⟨rfl, rfl, .inl rfl, .inl rfl⟩
    · refine ⟨hc.key, hc.cfg, hc.dt.imp_right ?_, hc.st.imp_right ?_⟩
      · rintro ⟨x, rfl, hdt⟩
        exact ⟨x, hf, hdt⟩
      · rintro ⟨x, rfl, hst⟩
        exact ⟨x, hf, hst⟩
  · obtain ⟨-, rfl⟩ | ⟨k, -, rfl⟩ := waitStep_eq_next.1 hw <;>
      exact ⟨rfl, rfl, .inl rfl, .inl rfl⟩

/-! ## `PC` (R26) -/

theorem State.npc_add_two (s : State) : s.npc + 2 = s.pc + 4 := by
  simp [State.npc, BitVec.add_assoc]

/-- A skip goes to `PC + 4` or `PC + 2` (R114). -/
theorem State.skipIf_pc_eq (s : State) (c : Bool) :
    (s.skipIf c).pc = if c then s.pc + 4 else s.pc + 2 := by
  rw [State.skipIf_pc, State.npc_add_two]
  rfl

theorem pcAfter_of_completes {s t : State} {i : Instr} (h : Completes s i t) : pcAfter i s t := by
  cases h with
  | ret hsp => exact ⟨⟨s.sp.val - 1, by omega⟩, Nat.sub_add_cancel hsp, rfl⟩
  | jp nnn | call nnn _ => exact addressOf_toNat nnn
  | jpV0 nnn =>
    have := nnn.isLt
    have := (s.reg 0).isLt
    simp [pcAfter, BitVec.toNat_add]
    omega
  | seImm x nn | sneImm x nn | seReg x y | sneReg x y =>
    exact (State.skipIf_pc_eq _ _).trans (by simp)
  | skp x hkey => exact ⟨⟨(s.reg x).toNat, hkey⟩, rfl, State.skipIf_pc_eq _ _⟩
  | sknp x hkey =>
    refine ⟨⟨(s.reg x).toNat, hkey⟩, rfl, (State.skipIf_pc_eq _ _).trans ?_⟩
    cases s.keyDown ⟨(s.reg x).toNat, hkey⟩ <;> rfl
  | _ => simp [pcAfter, State.npc]

/-- How `FX0A` leaves `PC`: at `npc` with a key down, else at the instruction (R171). -/
theorem exec_ldVxK_pc {x : RegId} {s t : State} (h : exec (.ldVxK x) s = .next t) :
    (∀ k, s.keyDown k = true → t.pc = s.pc + 2) ∧ ((∀ k, s.keyDown k = false) → t.pc = s.pc) := by
  obtain ⟨hkey, rfl⟩ | ⟨k, hkey, rfl⟩ := execLdVxK_eq_next.1 h
  · have hup := State.lowestKey_eq_none.1 hkey
    exact ⟨fun k hdown => absurd hdown (by simp [hup k]), fun _ => rfl⟩
  · have hdown := (State.lowestKey_eq_some.1 hkey).1
    exact ⟨fun _ _ => rfl, fun hup => absurd hdown (by simp [hup k])⟩

/-- Settles O28: a fault and a wait keep `PC`; otherwise the instruction has completed. -/
theorem pcAfterEachInstruction : Obligations.PcAfterEachInstruction := by
  intro i s t hrun h
  refine ⟨fun ht => pcAfter_of_completes (completes_of_running h ht), fun ht => ?_, ?_⟩
  · obtain ⟨f, -, rfl⟩ | ⟨x, -, -, rfl⟩ | hc := exec_outcomes h
    · rfl
    · rfl
    · exact absurd (hc.status.trans hrun) ht
  · rintro x rfl
    exact exec_ldVxK_pc h

end Sys2Proof.Machine
end

section
/-! PROOFS. Memory: the access primitives (R52 to R54), the canonical form as a normal form (R33, R50), the bytes
an instruction stores (R57, R58), and the fetch of what stands at `PC` (R53, R62, R64, R75). -/

namespace Sys2Proof.Machine

/-! ## The access primitives (R52 to R54) -/

section
variable {s : State} {a : Nat}

theorem State.readByte_of_lt (h : a < memSize) : s.readByte a = .ok (s.byteAt a) :=
  if_neg (Nat.not_le.2 h)

theorem State.readByte_of_ge (h : memSize ≤ a) : s.readByte a = .error (.memoryOutOfBounds a) :=
  if_pos h

theorem State.writeByte_of_lt (b : Byte) (h : a < memSize) : s.writeByte a b = .ok (s.putByte a b) :=
  if_neg (Nat.not_le.2 h)

theorem State.writeByte_of_ge (b : Byte) (h : memSize ≤ a) :
    s.writeByte a b = .error (.memoryOutOfBounds a) :=
  if_pos h

theorem State.readWord_of_ge (h : memSize ≤ a) : s.readWord a = .error (.memoryOutOfBounds a) :=
  if_pos h

/-- The second byte of a word at the last address does not exist (D25). -/
theorem State.readWord_of_last (h : a + 1 = memSize) :
    s.readWord a = .error (.memoryOutOfBounds memSize) := by
  rw [State.readWord, if_neg (by omega), if_pos (by omega), h]

end

/-- Settles O5: below 0x1000, at 0xFFF and from 0x1000 up each primitive answers by its own lemma. -/
theorem memoryPrimitivesCheckBounds : Obligations.MemoryPrimitivesCheckBounds := by
  intro s a
  refine ⟨fun h => ?_, fun h => ?_, fun h => ?_, fun h => ?_⟩
  · exact ⟨State.readByte_of_ge h, State.readWord_of_ge h, fun v => State.writeByte_of_ge v h⟩
  · refine ⟨State.readByte_of_lt h, fun v => ⟨s.putByte a v, State.writeByte_of_lt v h, rfl, fun hm => ?_, ?_⟩⟩
    · exact ⟨State.putByte_wf hm h, (State.byteAt_putByte hm a).trans (if_pos rfl)⟩
    · exact fun n hn => State.byteAt_putByte_ne s v hn
  · exact State.readWord_of_last (congrArg (· + 1) h)
  · exact ⟨_, State.readWord_of_fits h, bigEndian_toNat _ _⟩

/-! ## The canonical form is a normal form (R33, R50) -/

theorem Memory.wfFrom_cons {cfg : Config} {lo : Nat} {c : Host.Cell} {m : Memory} :
    Memory.wfFrom cfg lo (c :: m) = true ↔
      lo ≤ c.1 ∧ c.1 < memSize ∧ c.2 ≠ resetByte cfg c.1 ∧ Memory.wfFrom cfg (c.1 + 1) m = true := by
  simp only [Memory.wfFrom, Bool.and_eq_true, decide_eq_true_eq, and_assoc]

theorem Memory.le_of_mem {cfg : Config} {lo : Nat} {m : Memory} {c : Host.Cell}
    (hm : Memory.wfFrom cfg lo m = true) (hc : c ∈ m) : lo ≤ c.1 := by
  induction m generalizing lo with
  | nil => cases hc
  | cons d m ih =>
    obtain ⟨hlo, -, -, htail⟩ := Memory.wfFrom_cons.1 hm
    cases hc with
    | head => exact hlo
    | tail _ hc => exact hlo.trans (Nat.le_of_succ_le (ih htail hc))

theorem Memory.pairwise_address_lt {cfg : Config} {lo : Nat} {m : Memory}
    (hm : Memory.wfFrom cfg lo m = true) : m.Pairwise (InvImage (· < ·) Prod.fst) := by
  induction m generalizing lo with
  | nil => exact .nil
  | cons c m ih =>
    obtain ⟨-, -, -, htail⟩ := Memory.wfFrom_cons.1 hm
    exact .cons (fun d hd => Memory.le_of_mem htail hd) (ih htail)

/-- The canonical list holds exactly the bytes of memory that differ from the reset contents. -/
theorem Memory.mem_iff {cfg : Config} {lo a : Nat} {b : Byte} {m : Memory}
    (hm : Memory.wfFrom cfg lo m = true) :
    (a, b) ∈ m ↔ a < memSize ∧ Memory.read (resetByte cfg a) a m = b ∧ b ≠ resetByte cfg a := by
  induction m generalizing lo with
  | nil => simp +contextual [Memory.read, eq_comm]
  | cons c m ih =>
    obtain ⟨-, hsize, hne, htail⟩ := Memory.wfFrom_cons.1 hm
    obtain ⟨k, e⟩ := c
    by_cases h : k = a
    · subst h
      have hnot : (k, b) ∉ m := fun hmem => Nat.not_succ_le_self k (Memory.le_of_mem htail hmem)
      have hread : Memory.read (resetByte cfg k) k ((k, e) :: m) = e := if_pos rfl
      rw [List.mem_cons, or_iff_left hnot, hread, Prod.mk.injEq]
      exact ⟨fun ⟨_, he⟩ => ⟨hsize, he.symm, he ▸ hne⟩, fun ⟨_, he, _⟩ => ⟨rfl, he.symm⟩⟩
    · have hread : Memory.read (resetByte cfg a) a ((k, e) :: m) = Memory.read (resetByte cfg a) a m :=
        if_neg h
      have hhead : (a, b) ≠ (k, e) := fun he => h (congrArg Prod.fst he).symm
      rw [List.mem_cons, or_iff_right hhead, hread, ih htail]

/-- Settles O6: both lists hold the bytes that differ from the reset contents, and both by rising address. -/
theorem canonicalMemoryIsDeterminedByItsBytes : Obligations.CanonicalMemoryIsDeterminedByItsBytes := by
  intro cfg m m' hm hm' hread
  have hmem : ∀ c, c ∈ m ↔ c ∈ m' := by
    rintro ⟨a, b⟩
    rw [Memory.mem_iff hm, Memory.mem_iff hm']
    exact and_congr_right fun ha => by rw [hread a ha]
  exact (Memory.pairwise_address_lt hm).eq_of_mem_iff (Memory.pairwise_address_lt hm') hmem

/-! ## The bytes an instruction stores (R57, R58) -/

/-- What `MEM` reads as depends on the list of cells and on the reset contents only. -/
theorem State.byteAt_congr {s t : State} (hcfg : t.cfg = s.cfg) (hmem : t.mem = s.mem) (a : Nat) :
    t.byteAt a = s.byteAt a := by
  simp only [State.byteAt, hcfg, hmem]

@[simp] theorem State.advanceI_byteAt (s : State) (n a : Nat) : (s.advanceI n).byteAt a = s.byteAt a :=
  State.byteAt_congr (by simp) (by simp) a

/-- A completed instruction stores to its `storedBytes` addresses from `I` up only. -/
theorem Completes.byteAt {s t : State} {i : Instr} (h : Completes s i t) {a : Nat}
    (ha : ¬ (s.i.toNat ≤ a ∧ a < s.i.toNat + storedBytes i)) : t.byteAt a = s.byteAt a := by
  cases h with
  | ldB x _ =>
    simp only [storedBytes] at ha
    exact State.byteAt_putBytes_out s (by rw [decimalDigits_length]; omega)
  | ldMemVx x _ =>
    simp only [storedBytes] at ha
    rw [State.advance_byteAt, State.advanceI_byteAt]
    exact State.byteAt_putBytes_out s (by rw [State.regBlock_length]; omega)
  | _ => exact State.byteAt_congr (by simp) (by simp) a

/-- Settles O23: a fault and a wait store nothing, and a completed instruction only its own bytes. -/
theorem memoryChangesOnlyWhereStored : Obligations.MemoryChangesOnlyWhereStored := by
  intro i s t a h ha
  obtain ⟨f, -, rfl⟩ | ⟨x, -, -, rfl⟩ | hc := exec_outcomes h
  · rfl
  · rfl
  · exact hc.byteAt ha

/-! ## The fetch (R53, R62, R64, R75) -/

/-- Settles O9: the fetch fault comes before any decode. -/
theorem fetchOutsideMemoryFaults : Obligations.FetchOutsideMemoryFaults := by
  intro s hrun hpc
  exact step_of_fetch_fault hrun (State.fetchDecode_eq_error.2 (.inl ⟨Nat.succ_le_succ hpc, rfl⟩))

/-- A running machine executes the word whose two bytes stand at `PC` (R55, R75). -/
theorem step_of_bytes {s : State} {w : Word} {i : Instr} (hrun : s.status = .running)
    (hpc : s.pc.toNat + 1 < memSize)
    (hw : w.toNat = 256 * (s.byteAt s.pc.toNat).toNat + (s.byteAt (s.pc.toNat + 1)).toNat)
    (hi : decode s.cfg w = .instr i) : step s = exec i s := by
  have hword : s.wordAtPc = w := BitVec.eq_of_toNat_eq ((bigEndian_toNat _ _).trans hw.symm)
  exact step_of_running hrun (State.fetchDecode_eq_ok.2 ⟨hpc, hword ▸ hi⟩)

/-- After `FX55` the k-th byte from the old `I` is `V[k]` (R176). -/
theorem Completes.byteAt_stored {s t : State} {x : RegId} (hm : Memory.wf s.cfg s.mem = true)
    (h : Completes s (.ldMemVx x) t) (k : RegId) (hk : k ≤ x) :
    t.byteAt (s.i.toNat + k.val) = s.reg k := by
  cases h with
  | ldMemVx x hfit =>
    have hlen : k.val < (s.regBlock x).length := by
      rw [State.regBlock_length]
      exact Nat.lt_succ_of_le hk
    rw [State.advance_byteAt, State.advanceI_byteAt,
      State.byteAt_putBytes_in hm (by rwa [State.regBlock_length]) hlen]
    exact State.regBlock_getElem s x k.val hlen

/-- Settles O7: `V[0]` and `V[1]` stand at `I`, which is where `PC` points after the store. -/
theorem storedCodeIsExecutedNext : Obligations.StoredCodeIsExecutedNext := by
  intro s t x i w hm hrun hx hI hfit hw hi h
  change s.pc.toNat + 2 + (x.val + 1) ≤ memSize at hfit
  have hIpc : s.i.toNat = s.pc.toNat + 2 := hI ▸ State.npc_toNat (by omega)
  have hc : Completes s (.ldMemVx x) t := by
    obtain ⟨hout, -⟩ | ⟨hin, rfl⟩ := execLdMemVx_eq_next.1 h
    · omega
    · exact .ldMemVx x hin
  have hpc : t.pc = s.i := (pcAfter_of_completes hc).trans hI.symm
  have h0 := Completes.byteAt_stored hm hc 0 (Fin.zero_le x)
  have h1 := Completes.byteAt_stored hm hc 1 hx
  refine step_of_bytes (hc.status.trans hrun) ?_ ?_ (hc.cfg ▸ hi)
  · rw [hpc]; omega
  · rw [hpc, hw]
    exact congrArg₂ (256 * ·.toNat + ·.toNat) h0.symm h1.symm

end Sys2Proof.Machine
end

section
/-! PROOFS. The instruction words (R71, R72, R77, R85 to R87): the words that decode are the encodings of the
well-formed instructions, the others are R87's list, and what a running step makes of the word at `PC`. -/

namespace Sys2Proof

/-! ## A word rebuilt from its fields and the literal digits of its row (R72) -/

section
variable {w : Word} {k : BitVec 4}

theorem formatNNN_nnnField (hop : (opField w).toNat = k.toNat) : formatNNN k (nnnField w) = w := by
  rw [← BitVec.eq_of_toNat_eq hop, formatNNN_fields]

/-- All three low nibbles select the row (group 0). -/
theorem formatNNN_of_nnnField {nnn : BitVec 12} (hop : (opField w).toNat = k.toNat)
    (hnnn : (nnnField w).toNat = nnn.toNat) : formatNNN k nnn = w := by
  rw [← BitVec.eq_of_toNat_eq hnnn, formatNNN_nnnField hop]

theorem formatXNN_xField_nnField (hop : (opField w).toNat = k.toNat) :
    formatXNN k (xField w) (nnField w) = w := by
  rw [← BitVec.eq_of_toNat_eq hop, formatXNN_fields]

/-- The low byte selects the row (groups E and F). -/
theorem formatXNN_xField {nn : Byte} (hop : (opField w).toNat = k.toNat)
    (hnn : (nnField w).toNat = nn.toNat) : formatXNN k (xField w) nn = w := by
  rw [← BitVec.eq_of_toNat_eq hnn, formatXNN_xField_nnField hop]

theorem formatXYN_xField_yField_nField (hop : (opField w).toNat = k.toNat) :
    formatXYN k (xField w) (yField w) (nField w) = w := by
  rw [← BitVec.eq_of_toNat_eq hop, formatXYN_fields]

/-- The low nibble selects the row (groups 5, 8 and 9). -/
theorem formatXYN_xField_yField {n : BitVec 4} (hop : (opField w).toNat = k.toNat)
    (hn : (nField w).toNat = n.toNat) : formatXYN k (xField w) (yField w) n = w := by
  rw [← BitVec.eq_of_toNat_eq hn, formatXYN_xField_yField_nField hop]

end

/-! ## A word that decodes is the encoding of a well-formed instruction (R77, R85) -/

section
variable {cfg : Config} {w : Word} {i : Instr}

theorem decodeGroup0_eq_instr (hop : (opField w).toNat = 0x0) (h : decodeGroup0 w = .instr i) :
    i.wf cfg = true ∧ encode i = w := by
  unfold decodeGroup0 at h
  split at h <;> cases h
  next hnnn => exact ⟨rfl, formatNNN_of_nnnField (k := 0x0) (nnn := 0x0E0) hop hnnn⟩
  next hnnn => exact ⟨rfl, formatNNN_of_nnnField (k := 0x0) (nnn := 0x0EE) hop hnnn⟩

theorem decodeGroup8_eq_instr (hop : (opField w).toNat = 0x8) (h : decodeGroup8 w = .instr i) :
    i.wf cfg = true ∧ encode i = w := by
  unfold decodeGroup8 at h
  split at h <;> cases h <;> exact ⟨rfl, formatXYN_xField_yField hop ‹_›⟩

theorem decodeGroupE_eq_instr (hop : (opField w).toNat = 0xE) (h : decodeGroupE w = .instr i) :
    i.wf cfg = true ∧ encode i = w := by
  unfold decodeGroupE at h
  split at h <;> cases h <;> exact ⟨rfl, formatXNN_xField hop ‹_›⟩

theorem decodeGroupF_eq_instr (hop : (opField w).toNat = 0xF) (h : decodeGroupF w = .instr i) :
    i.wf cfg = true ∧ encode i = w := by
  unfold decodeGroupF at h
  split at h <;> cases h <;> exact ⟨rfl, formatXNN_xField hop ‹_›⟩

end

/-- Settles O3, group by group: the fields of a row and its literal digits rebuild the word. -/
theorem decodedWordIsItsEncoding : Obligations.DecodedWordIsItsEncoding := by
  intro cfg w i h
  unfold decode at h
  split at h
  case h_1 hop => exact decodeGroup0_eq_instr hop h
  case h_9 hop => exact decodeGroup8_eq_instr hop h
  case h_15 hop => exact decodeGroupE_eq_instr hop h
  case h_16 hop => exact decodeGroupF_eq_instr hop h
  case h_2 hop | h_3 hop | h_11 hop =>
    cases h
    exact ⟨rfl, formatNNN_nnnField hop⟩
  case h_4 hop | h_5 hop | h_7 hop | h_8 hop | h_13 hop =>
    cases h
    exact ⟨rfl, formatXNN_xField_nnField hop⟩
  case h_14 hop =>
    cases h
    exact ⟨rfl, formatXYN_xField_yField_nField hop⟩
  case h_6 hop | h_10 hop =>
    split at h <;> cases h
    next hn => exact ⟨rfl, formatXYN_xField_yField hop (congrArg BitVec.toNat hn)⟩
  case h_12 hop =>
    split at h <;> cases h
    next hb => exact ⟨hb, formatNNN_nnnField hop⟩
  case h_17 => cases h

/-! ## Decode of encode (R72, R77) -/

/-- Settles O2: `decode` reads back the literal digits and the operands that `encode` put in the fields. -/
theorem decodeInvertsEncode : Obligations.DecodeInvertsEncode := by
  intro cfg i hwf
  cases i with
  | cls => rfl
  | ret => rfl
  | jpV0 nnn =>
    have hb : cfg.bnnnEnabled = true := hwf
    simp [encode, decode, hb]
  | _ => simp [encode, decode, decodeGroup8, decodeGroupE, decodeGroupF]

/-- Settles O1: sixteen closed words. -/
theorem specExampleWordsDecode : Obligations.SpecExampleWordsDecode := by
  unfold Obligations.SpecExampleWordsDecode
  decide

end Sys2Proof

namespace Sys2Proof.Machine

/-! ## The unknown words (R86, R87, R133, R178) -/

section
variable {w u : Word}

theorem decodeGroup0_eq_unknownOpcode : decodeGroup0 w = .unknownOpcode u ↔
    (nnnField w).toNat ∉ [0x0E0, 0x0EE] ∧ w = u := by
  unfold decodeGroup0
  split <;> simp_all

/-- R133's low nibbles are the ones that `decodeGroup8` does not list. -/
theorem mem_unlistedGroup8_iff (n : BitVec 4) :
    n.toNat ∈ [0x8, 0x9, 0xA, 0xB, 0xC, 0xD, 0xF] ↔
      n.toNat ∉ [0x0, 0x1, 0x2, 0x3, 0x4, 0x5, 0x6, 0x7, 0xE] := by
  decide +revert

theorem decodeGroup8_eq_unknownOpcode : decodeGroup8 w = .unknownOpcode u ↔
    (nField w).toNat ∈ [0x8, 0x9, 0xA, 0xB, 0xC, 0xD, 0xF] ∧ w = u := by
  rw [mem_unlistedGroup8_iff]
  unfold decodeGroup8
  split <;> simp_all

theorem decodeGroupE_eq_unknownOpcode : decodeGroupE w = .unknownOpcode u ↔
    (nnField w).toNat ∉ [0x9E, 0xA1] ∧ w = u := by
  unfold decodeGroupE
  split <;> simp_all

theorem decodeGroupF_eq_unknownOpcode : decodeGroupF w = .unknownOpcode u ↔
    (nnField w).toNat ∉ [0x07, 0x0A, 0x15, 0x18, 0x1E, 0x29, 0x33, 0x55, 0x65] ∧ w = u := by
  unfold decodeGroupF
  split <;> simp_all

/-- R87's table, group by group, in the fields that `decode` reads. -/
theorem illegalWord_iff_fields {b : Bool} : IllegalWord b w ↔
    ((opField w).toNat = 0x0 ∧ (nnnField w).toNat ∉ [0x0E0, 0x0EE]) ∨
    ((opField w).toNat = 0x5 ∧ nField w ≠ 0) ∨
    ((opField w).toNat = 0x8 ∧ (nField w).toNat ∈ [0x8, 0x9, 0xA, 0xB, 0xC, 0xD, 0xF]) ∨
    ((opField w).toNat = 0x9 ∧ nField w ≠ 0) ∨
    ((opField w).toNat = 0xB ∧ b = false) ∨
    ((opField w).toNat = 0xE ∧ (nnField w).toNat ∉ [0x9E, 0xA1]) ∨
    ((opField w).toNat = 0xF ∧
      (nnField w).toNat ∉ [0x07, 0x0A, 0x15, 0x18, 0x1E, 0x29, 0x33, 0x55, 0x65]) := by
  have hn : nField w ≠ 0 ↔ w.toNat % 16 ≠ 0 := by
    rw [← nField_toNat, ne_eq, ← BitVec.toNat_inj]; rfl
  have h0 : (w.toNat < 0x1000 ∧ w.toNat ≠ 0x00E0 ∧ w.toNat ≠ 0x00EE) ↔
      (w.toNat / 0x1000 = 0x0 ∧ w.toNat % 0x1000 ∉ [0x0E0, 0x0EE]) := by
    simp only [List.mem_cons, List.not_mem_nil, or_false, not_or]
    omega
  rw [hn, opField_toNat, nnnField_toNat, nField_toNat, nnField_toNat, ← h0]
  rfl

/-- The decoder rejects exactly the words of R87, and reports the word it rejects (R77). -/
theorem decode_eq_unknownOpcode {cfg : Config} :
    decode cfg w = .unknownOpcode u ↔ IllegalWord cfg.bnnnEnabled w ∧ w = u := by
  rw [illegalWord_iff_fields]
  unfold decode
  split
  case h_1 hop => simp [hop, decodeGroup0_eq_unknownOpcode]
  case h_9 hop => simp [hop, decodeGroup8_eq_unknownOpcode]
  case h_15 hop => simp [hop, decodeGroupE_eq_unknownOpcode]
  case h_16 hop => simp [hop, decodeGroupF_eq_unknownOpcode]
  case h_6 hop | h_10 hop => split <;> simp_all
  case h_12 hop => split <;> simp [*]
  case h_17 =>
    have hlt := (opField w).isLt
    interval_cases (opField w).toNat <;> contradiction
  all_goals next hop => simp [hop]

end

/-! ## The step on the word at `PC` (R55, R75) -/

theorem State.wordAtPc_eq {s : State} {w : Word}
    (hw : w.toNat = 256 * (s.byteAt s.pc.toNat).toNat + (s.byteAt (s.pc.toNat + 1)).toNat) :
    s.wordAtPc = w :=
  BitVec.eq_of_toNat_eq ((bigEndian_toNat _ _).trans hw.symm)

/-- Settles O4: the words `decode` rejects are R87's, and a rejected word is a fetch fault that carries it. -/
theorem exactlyTheListedWordsAreUnknown : Obligations.ExactlyTheListedWordsAreUnknown := by
  refine ⟨fun cfg w => ?_, fun cfg w u h => ?_, fun s w hrun hpc hw hill => ?_⟩
  · exact decode_eq_unknownOpcode.trans (and_iff_left rfl)
  · exact (decode_eq_unknownOpcode.1 h).2.symm
  · have hdec : decode s.cfg s.wordAtPc = .unknownOpcode w := by
      rw [State.wordAtPc_eq hw]
      exact decode_eq_unknownOpcode.2 ⟨hill, rfl⟩
    exact step_of_fetch_fault hrun (State.fetchDecode_eq_error.2 (.inr ⟨hpc, w, hdec, rfl⟩))

/-- Settles O8: the fetch answers the decoded instruction. -/
theorem stepRunsTheDecodedInstruction : Obligations.StepRunsTheDecodedInstruction :=
  fun _ _ _ hrun hpc hw hi => step_of_bytes hrun hpc hw hi

end Sys2Proof.Machine
end

section
/-! PROOFS. Clear, return, jump and call (R100 to R104): their words, their effects with the rest of the state as
before, and nested calls and returns (90_conflicts.md C4). -/

namespace Sys2Proof.Machine

/-! ## The word of an instruction (R72, R77, R85) -/

/-- An instruction's word is its encoding, which decodes wherever the instruction exists. -/
theorem isWordOf_of_encode_toNat {n : Nat} {i : Instr} (h : (encode i).toNat = n) : IsWordOf n i := by
  have hword : BitVec.ofNat 16 n = encode i := by simp [← h]
  refine ⟨h ▸ (encode i).isLt, hword.symm, fun cfg hwf => ?_⟩
  rw [hword]
  exact decodeInvertsEncode cfg i hwf

theorem addressOf_eq_ofNat (nnn : BitVec 12) : addressOf nnn = BitVec.ofNat 16 nnn.toNat :=
  (BitVec.ofNat_toNat 16 nnn).symm

theorem widen_eq_ofNat (a : Byte) : widen a = BitVec.ofNat 16 a.toNat :=
  (BitVec.ofNat_toNat 16 a).symm

/-! ## Call and return with the stack neither full nor empty (R101, R103) -/

/-- The state after a call of `nnn` that pushes entry `k`. -/
def State.called (s : State) (nnn : BitVec 12) (k : Fin 16) : State :=
  { s with stack := s.stack.set k.val (s.pc + 2), sp := k.succ, pc := BitVec.ofNat 16 nnn.toNat }

section
variable {s : State} {k : Fin 16} {q : Fin 17}

theorem exec_call_pushes (nnn : BitVec 12) (hk : k.val = s.sp.val) :
    exec (.call nnn) s = .next (s.called nnn k) := by
  have hroom : s.sp.val < 16 := hk ▸ k.isLt
  obtain rfl : k = ⟨s.sp.val, hroom⟩ := Fin.ext hk
  exact execCall_eq_next.2 (.inr ⟨hroom, by rw [addressOf_eq_ofNat]; rfl⟩)

theorem exec_ret_pops (hk : k.val + 1 = s.sp.val) (hq : q.val = k.val) :
    exec .ret s = .next { s with sp := q, pc := s.stack[k.val] } := by
  have hlive : 0 < s.sp.val := by omega
  have hpred : s.sp.val - 1 = k.val := by omega
  refine execRet_eq_next.2 (.inr ⟨hlive, ?_⟩)
  simp [hpred, ← hq]

end

/-! ## Nested calls and returns (C4) -/

theorem execAll_append {is js : List Instr} {s t : State} (h : execAll is s = .next t) :
    execAll (is ++ js) s = execAll js t := by
  induction is generalizing s with
  | nil =>
    cases h
    rfl
  | cons i is ih =>
    rw [List.cons_append, execAll]
    rw [execAll] at h
    cases hi : exec i s with
    | next s' =>
      rw [hi] at h
      exact ih h
    | fault f => simp [hi] at h
    | refused r => simp [hi] at h

/-- From `s` to `t` only `PC` and dead stack entries have changed. -/
structure KeepsLiveStack (s t : State) : Prop where
  frame : t = { s with pc := t.pc, stack := t.stack }
  live : ∀ k : Fin 16, k.val < s.sp.val → t.stack[k.val] = s.stack[k.val]

theorem KeepsLiveStack.refl (s : State) : KeepsLiveStack s s := ⟨rfl, fun _ _ => rfl⟩

/-- A call whose body keeps the live entries, the pushed one among them, returns to the instruction after it. -/
theorem execAll_call_body_ret {s : State} {k : Fin 16} {body : List Instr} (nnn : BitVec 12)
    (hk : k.val = s.sp.val)
    (hbody : ∃ t, execAll body (s.called nnn k) = .next t ∧ KeepsLiveStack (s.called nnn k) t) :
    ∃ t, execAll (.call nnn :: body ++ [.ret]) s = .next t ∧ KeepsLiveStack s t ∧ t.pc = s.pc + 2 := by
  obtain ⟨t, hexec, hframe, hlive⟩ := hbody
  have htop : t.stack[k.val] = s.pc + 2 :=
    (hlive k (Nat.lt_succ_self _)).trans (Vector.getElem_set_self k.isLt)
  have hsp : k.val + 1 = t.sp.val := by rw [hframe]; rfl
  have hret : exec .ret t = .next { t with sp := s.sp, pc := s.pc + 2 } := by
    rw [exec_ret_pops hsp hk.symm, htop]
  refine ⟨{ t with sp := s.sp, pc := s.pc + 2 }, ?_, ⟨?_, fun j hj => ?_⟩, rfl⟩
  · rw [List.cons_append, execAll, exec_call_pushes nnn hk]
    refine (execAll_append hexec).trans ?_
    rw [execAll, hret]
    rfl
  · rw [hframe]
    rfl
  · have hjk : j.val < k.val := hk ▸ hj
    exact (hlive j (hjk.trans (Nat.lt_succ_self _))).trans
      (Vector.getElem_set_ne k.isLt j.isLt hjk.ne')

/-- The calls of `targets`, then as many returns. -/
def callsThenReturns (targets : List (BitVec 12)) : List Instr :=
  targets.map .call ++ List.replicate targets.length .ret

theorem callsThenReturns_cons (nnn : BitVec 12) (targets : List (BitVec 12)) :
    callsThenReturns (nnn :: targets) = .call nnn :: callsThenReturns targets ++ [.ret] := by
  simp [callsThenReturns, List.replicate_succ']

/-- By induction on the calls: the body of the first call is the calls after it and their returns. -/
theorem callsThenReturns_keepLiveStack (targets : List (BitVec 12)) {s : State}
    (hfit : s.sp.val + targets.length ≤ 16) :
    ∃ t, execAll (callsThenReturns targets) s = .next t ∧ KeepsLiveStack s t ∧
      (targets ≠ [] → t.pc = s.pc + 2) := by
  induction targets generalizing s with
  | nil => exact ⟨s, rfl, .refl s, fun hne => absurd rfl hne⟩
  | cons nnn targets ih =>
    rw [List.length_cons] at hfit
    have hroom : s.sp.val < 16 := by omega
    have hinner : (s.called nnn ⟨s.sp.val, hroom⟩).sp.val + targets.length ≤ 16 := by
      change s.sp.val + 1 + targets.length ≤ 16
      omega
    obtain ⟨u, hinnerExec, hinnerKeep, -⟩ := ih hinner
    obtain ⟨t, hexec, hkeep, hpc⟩ := execAll_call_body_ret nnn rfl ⟨u, hinnerExec, hinnerKeep⟩
    exact ⟨t, callsThenReturns_cons nnn targets ▸ hexec, hkeep, fun _ => hpc⟩

/-- Settles O34: nested calls return one inside the other (R101, R103). -/
theorem callsAndReturnsRoundTrip : Obligations.CallsAndReturnsRoundTrip := by
  intro targets s hne hfit
  obtain ⟨t, hexec, ⟨hframe, hlive⟩, hpc⟩ := callsThenReturns_keepLiveStack targets hfit
  exact ⟨t, hexec, hpc hne ▸ hframe, hlive⟩

/-! ## One instruction at a time -/

/-- Settles O29: the grid is the blank one. -/
theorem clsClearsTheGrid : Obligations.ClsClearsTheGrid :=
  ⟨isWordOf_of_encode_toNat rfl, fun _ => ⟨blankFramebuffer, pixelAt_blankFramebuffer, rfl⟩⟩

/-- Settles O30: an empty stack has nothing to pop. -/
theorem retPopsTheStack : Obligations.RetPopsTheStack := by
  refine ⟨isWordOf_of_encode_toNat rfl, fun s => ⟨fun hempty => ?_, fun k q => exec_ret_pops⟩⟩
  exact execRet_eq_next.2 (.inl ⟨hempty, rfl⟩)

/-- Settles O31: the target is the field zero-extended. -/
theorem jumpGoesToItsTarget : Obligations.JumpGoesToItsTarget := by
  refine fun nnn => ⟨isWordOf_of_encode_toNat (formatNNN_toNat 0x1 nnn), fun s => ?_⟩
  rw [← addressOf_eq_ofNat]
  rfl

/-- Settles O32: a full stack takes no push. -/
theorem callPushesTheReturnAddress : Obligations.CallPushesTheReturnAddress := by
  refine fun nnn => ⟨isWordOf_of_encode_toNat (formatNNN_toNat 0x2 nnn), fun s => ⟨fun hfull => ?_, ?_⟩⟩
  · exact execCall_eq_next.2 (.inl ⟨hfull, rfl⟩)
  · intro k q hk hq
    obtain rfl : q = k.succ := Fin.ext hq
    exact exec_call_pushes nnn hk

/-- Settles O33: group B is on R87's list exactly where `BNNN_ENABLED` is false. -/
theorem jumpWithOffsetAddsV0 : Obligations.JumpWithOffsetAddsV0 := by
  intro nnn
  have hword : IsWordOf (0xB000 + nnn.toNat) (.jpV0 nnn) :=
    isWordOf_of_encode_toNat (formatNNN_toNat 0xB nnn)
  refine ⟨hword, fun cfg hoff => ?_, fun s => ?_⟩
  · have hgroup : (BitVec.ofNat 16 (0xB000 + nnn.toNat)).toNat / 0x1000 = 0xB := by
      have := nnn.isLt
      rw [BitVec.toNat_ofNat]
      omega
    exact decode_eq_unknownOpcode.2 ⟨.inr (.inr (.inr (.inr (.inl ⟨hgroup, hoff⟩)))), rfl⟩
  · rw [BitVec.ofNat_add, ← addressOf_eq_ofNat, ← widen_eq_ofNat]
    rfl

end Sys2Proof.Machine
end

section
/-! PROOFS. The conditional skips (R110 to R114): a skip as the one update of `PC` that it makes, and the four
register skips as its instances. -/

namespace Sys2Proof.Machine

/-- A skip changes `PC` alone: `PC + 4` where its condition holds, else `PC + 2` (R114). -/
theorem State.skipIf_of_iff (s : State) {c : Bool} {p : Prop} [Decidable p] (h : c = true ↔ p) :
    s.skipIf c = { s with pc := if p then s.pc + 4 else s.pc + 2 } := by
  have hpc : (s.skipIf c).pc = if p then s.pc + 4 else s.pc + 2 := by
    simp only [State.skipIf_pc_eq, h]
  rw [← hpc]
  rfl

/-- Settles O35: each word is its format's fields, and each comparison of bytes is the condition of one skip. -/
theorem conditionalSkips : Obligations.ConditionalSkips := by
  refine fun x y nn s => ⟨⟨?_, ?_⟩, ⟨?_, ?_⟩, ⟨?_, ?_⟩, ⟨?_, ?_⟩⟩
  · exact isWordOf_of_encode_toNat (formatXNN_toNat 0x3 x nn)
  · exact congrArg Host.Outcome.next (s.skipIf_of_iff beq_iff_eq)
  · exact isWordOf_of_encode_toNat (formatXNN_toNat 0x4 x nn)
  · exact congrArg Host.Outcome.next (s.skipIf_of_iff bne_iff_ne)
  · exact isWordOf_of_encode_toNat (formatXYN_toNat 0x5 x y 0x0)
  · exact congrArg Host.Outcome.next (s.skipIf_of_iff beq_iff_eq)
  · exact isWordOf_of_encode_toNat (formatXYN_toNat 0x9 x y 0x0)
  · exact congrArg Host.Outcome.next (s.skipIf_of_iff bne_iff_ne)

end Sys2Proof.Machine
end

section
/-! PROOFS. Loads and the arithmetic of bytes (R120 to R132): a completed register write, with and without its flag,
and the results and flags of bytes read as numbers. -/

namespace Sys2Proof.Machine

/-! ## A register write that completes, and its word (R72, R76, R131) -/

section
variable (s : State) (x : RegId)

theorem complete_setReg (b : Byte) :
    complete (s.setReg x b) = .next { s with v := s.v.set x.val b, pc := s.pc + 2 } := rfl

/-- The result, then the flag in VF, given as the number it is computed to and the condition it reports. -/
theorem complete_setRegFlag {b b' : Byte} {c : Bool} {p : Prop} [Decidable p] (hb : b = b')
    (hc : c = decide p) : complete (s.setRegFlag x b c) =
      .next { s with v := (s.v.set x.val b').set 15 (flagOf p), pc := s.pc + 2 } := by
  rw [hb, hc, ← flagByte_decide]
  rfl

end

/-- A word of group 8: the low nibble selects the operation (R72, D7). -/
theorem isWordOf_group8 {i : Instr} {x y : RegId} (n : BitVec 4) (h : encode i = formatXYN 0x8 x y n) :
    IsWordOf (0x8000 + n.toNat + 0x100 * x.val + 0x10 * y.val) i := by
  refine isWordOf_of_encode_toNat ?_
  have hop : (0x8 : BitVec 4).toNat = 8 := rfl
  rw [h, formatXYN_toNat, hop]
  omega

/-! ## Bytes as numbers mod 256 (R121, R126 to R130) -/

section
variable (a b : Byte)

theorem add_eq_ofNat_mod : a + b = BitVec.ofNat 8 ((a.toNat + b.toNat) % 256) :=
  BitVec.eq_of_toNat_eq (by simp)

theorem sub_eq_ofNat_mod : a - b = BitVec.ofNat 8 ((a.toNat + 256 - b.toNat) % 256) := by
  have hb := b.isLt
  refine BitVec.eq_of_toNat_eq ?_
  rw [BitVec.toNat_sub, BitVec.toNat_ofNat]
  omega

theorem shiftRight_one_eq_ofNat_half : a >>> 1 = BitVec.ofNat 8 (a.toNat / 2) := by
  have ha := a.isLt
  refine BitVec.eq_of_toNat_eq ?_
  rw [BitVec.toNat_ushiftRight, Nat.shiftRight_one, BitVec.toNat_ofNat]
  omega

theorem shiftLeft_one_eq_ofNat_double : a <<< 1 = BitVec.ofNat 8 (a.toNat * 2 % 256) :=
  BitVec.eq_of_toNat_eq (by simp [Nat.shiftLeft_eq])

end

/-! ## The instructions -/

/-- Settles O37: each writes the one register. -/
theorem loadsAndLogicalOperations : Obligations.LoadsAndLogicalOperations := by
  refine fun x y nn s => ⟨⟨?_, ?_⟩, ⟨?_, ?_⟩, ⟨?_, ?_⟩, ⟨?_, ?_⟩, ⟨?_, ?_⟩⟩
  · exact isWordOf_of_encode_toNat (formatXNN_toNat 0x6 x nn)
  · exact complete_setReg s x nn
  · exact isWordOf_group8 0x0 rfl
  · exact complete_setReg s x (s.reg y)
  · exact isWordOf_group8 0x1 rfl
  · exact complete_setReg s x (s.reg x ||| s.reg y)
  · exact isWordOf_group8 0x2 rfl
  · exact complete_setReg s x (s.reg x &&& s.reg y)
  · exact isWordOf_group8 0x3 rfl
  · exact complete_setReg s x (s.reg x ^^^ s.reg y)

/-- Settles O38: the sum of bytes is the sum mod 256, and no flag is written (D13). -/
theorem addImmediateWritesNoFlag : Obligations.AddImmediateWritesNoFlag := by
  refine fun x nn s => ⟨isWordOf_of_encode_toNat (formatXNN_toNat 0x7 x nn), ?_⟩
  rw [← add_eq_ofNat_mod]
  exact complete_setReg s x (s.reg x + nn)

/-- Settles O39: the flag is the carry out of the same sum. -/
theorem addRegisterSetsCarry : Obligations.AddRegisterSetsCarry :=
  fun x y s => ⟨isWordOf_group8 0x4 rfl, complete_setRegFlag s x (add_eq_ofNat_mod (s.reg x) (s.reg y)) rfl⟩

/-- Settles O40: the two subtractions differ in which register is the minuend. -/
theorem subtractSetsNoBorrow : Obligations.SubtractSetsNoBorrow := by
  refine fun x y s => ⟨⟨isWordOf_group8 0x5 rfl, ?_⟩, isWordOf_group8 0x7 rfl, ?_⟩
  · exact complete_setRegFlag s x (sub_eq_ofNat_mod (s.reg x) (s.reg y)) rfl
  · exact complete_setRegFlag s x (sub_eq_ofNat_mod (s.reg y) (s.reg x)) rfl

/-- Settles O41: the shifts halve and double whichever register `SHIFT_USES_VY` selects (D10). -/
theorem shiftsSetTheBitShiftedOut : Obligations.ShiftsSetTheBitShiftedOut := by
  intro x y s src hsrc
  obtain rfl : src = s.shiftSource x y := hsrc
  refine ⟨⟨isWordOf_group8 0x6 rfl, ?_⟩, isWordOf_group8 0xE rfl, ?_⟩
  · exact complete_setRegFlag s x (shiftRight_one_eq_ofNat_half _) (shiftedOutRight_eq _)
  · exact complete_setRegFlag s x (shiftLeft_one_eq_ofNat_double _) (shiftedOutLeft_eq _)

end Sys2Proof.Machine
end

section
/-! PROOFS. The index register and the random byte (R140 to R142): the words and effects of the three instructions,
and the count of random bytes, which only `CXNN` moves (R225). -/

namespace Sys2Proof.Machine

/-! ## The count of random bytes (R142, R225) -/

section
variable (s : State) (n : Nat) (c : Bool) (r : Framebuffer × Bool)

@[simp] theorem State.advanceI_draws : (s.advanceI n).draws = s.draws := by rw [State.advanceI_eq]
@[simp] theorem State.flagIfEnabled_draws : (s.flagIfEnabled c).draws = s.draws := by
  rw [State.flagIfEnabled_eq]
@[simp] theorem State.drawn_draws : (s.drawn r).draws = s.draws := rfl

end

/-- Only `CXNN` consumes a random byte (R142). -/
theorem Completes.draws {s t : State} {i : Instr} (h : Completes s i t) (hi : ∀ x nn, i ≠ .rnd x nn) :
    t.draws = s.draws := by
  cases h with
  | rnd x nn => exact absurd rfl (hi x nn)
  | _ => simp

/-- A fault and the wait of `FX0A` consume none either. -/
theorem exec_draws {i : Instr} {s t : State} (h : exec i s = .next t) (hi : ∀ x nn, i ≠ .rnd x nn) :
    t.draws = s.draws := by
  obtain ⟨f, -, rfl⟩ | ⟨x, -, -, rfl⟩ | hc := exec_outcomes h
  · rfl
  · rfl
  · exact hc.draws hi

/-! ## The random byte (R142) -/

/-- Settles O44: the byte is the one numbered `draws`, whatever it is, and no bit passes both NN and its
complement. -/
theorem randomByteIsMasked : Obligations.RandomByteIsMasked := by
  refine ⟨fun x nn s => ⟨?_, s.randomByte, rfl, ?_, rfl⟩, fun i s t hi h => exec_draws h hi⟩
  · exact isWordOf_of_encode_toNat (formatXNN_toNat 0xC x nn)
  · rw [BitVec.and_assoc, BitVec.and_not_self]
    exact BitVec.and_zero

/-! ## The index register (R140, R141) -/

/-- Settles O42: the immediate is zero-extended. -/
theorem loadIndex : Obligations.LoadIndex := by
  refine fun nnn => ⟨isWordOf_of_encode_toNat (formatNNN_toNat 0xA nnn), fun s => ?_⟩
  rw [← addressOf_eq_ofNat]
  rfl

/-- A word of group F: the low byte selects the transfer (R72, R77). -/
theorem isWordOf_groupF {i : Instr} {x : RegId} (nn : Byte) (h : encode i = formatXNN 0xF x nn) :
    IsWordOf (0xF000 + nn.toNat + 0x100 * x.val) i := by
  refine isWordOf_of_encode_toNat ?_
  have hop : (0xF : BitVec 4).toNat = 15 := rfl
  rw [h, formatXNN_toNat, hop]
  omega

/-- `I` takes the sum of a word and a byte mod 2^16. -/
theorem add_widen_eq_ofNat_mod (w : Word) (a : Byte) :
    w + widen a = BitVec.ofNat 16 ((w.toNat + a.toNat) % 0x10000) :=
  BitVec.eq_of_toNat_eq (by simp)

/-- The state `FX1E` leaves, under either value of its option. -/
theorem exec_addI_eq (x : RegId) (s : State) : exec (.addI x) s = .next { s with
    i := BitVec.ofNat 16 ((s.i.toNat + (s.reg x).toNat) % 0x10000)
    v := if s.cfg.fx1eOverflowFlag = true then
      s.v.set 15 (flagOf (0x0FFF < s.i.toNat + (s.reg x).toNat)) else s.v
    pc := s.pc + 2 } := by
  rw [← add_widen_eq_ofNat_mod, ← flagByte_decide]
  exact congrArg complete (State.flagIfEnabled_eq _ _)

/-- Settles O43: the option decides between the two values of VF (D14). -/
theorem addIndexWrapsAt16Bits : Obligations.AddIndexWrapsAt16Bits := by
  rintro x s _ rfl
  refine ⟨isWordOf_groupF 0x1E rfl, fun hoff => ?_, fun hon => ?_⟩
  · simp [exec_addI_eq, hoff]
  · simp [exec_addI_eq, hon]

end Sys2Proof.Machine
end

section
/-! PROOFS. The draw (R150 to R157): the pixels inside and outside the sprite, the same sprite drawn twice, a
sprite outside memory, and the one `Render` of a completed draw (R224). -/

namespace Sys2Proof.Machine

/-! ## The pixels (R151 to R154, R157) -/

/-- Column `c` of row `r` has its own bit (R151, R152). -/
theorem spriteAt_inside {bs : List Byte} (x0 y0 : Nat) {r c : Nat} (hr : r < bs.length) (hc : c < 8) :
    spriteAt bs x0 y0 (x0 + c) (y0 + r) = bs[r].getLsbD (7 - c) := by
  simp [spriteAt, spriteBit, hr, hc]

/-- On the grid, the pixel under a sprite bit is XORed with it (R153). -/
theorem pixelAt_raster_inside (fb : Framebuffer) {bs : List Byte} {x0 y0 r c : Nat} (hr : r < bs.length)
    (hc : c < 8) (hx : x0 + c < 64) (hy : y0 + r < 32) :
    pixelAt (raster fb x0 y0 bs).1 (x0 + c) (y0 + r) =
      (pixelAt fb (x0 + c) (y0 + r) ^^ bs[r].getLsbD (7 - c)) := by
  have hgrid : inGrid (x0 + c) (y0 + r) = true := decide_eq_true ⟨hx, hy⟩
  rw [pixelAt_raster, hgrid, Bool.true_and, spriteAt_inside x0 y0 hr hc]

/-- XOR with the same sprite bit twice gives each pixel back (R157(a)). -/
theorem raster_raster_fst (fb : Framebuffer) (x0 y0 : Nat) (bs : List Byte) :
    (raster (raster fb x0 y0 bs).1 x0 y0 bs).1 = fb := by
  refine framebuffer_ext fun px py => ?_
  rw [pixelAt_raster, pixelAt_raster, Bool.xor_assoc, Bool.xor_self, Bool.xor_false]

/-- Settles O47: the second draw unsets what the first turned on, for it gives the first grid back. -/
theorem drawingTwiceRestoresTheGrid : Obligations.DrawingTwiceRestoresTheGrid := by
  intro fb g g' x0 y0 bs hit hit' hfirst hsecond
  obtain rfl : (raster fb x0 y0 bs).1 = g := congrArg Prod.fst hfirst
  have hback : g' = fb := (congrArg Prod.fst hsecond).symm.trans (raster_raster_fst fb x0 y0 bs)
  have hcollides : hit' = true ↔ ∃ px py,
      pixelAt (raster fb x0 y0 bs).1 px py = true ∧ pixelAt g' px py = false := by
    have hunsets := raster_hit_iff_unsets (fb := (raster fb x0 y0 bs).1) (x0 := x0) (y0 := y0) (bs := bs)
    rwa [hsecond] at hunsets
  subst hback
  exact ⟨rfl, hcollides.trans <| exists_congr fun px => exists_congr fun py => and_comm⟩

/-! ## The instruction (R150, R154 to R156) -/

/-- A draw writes the grid, VF, `PC` and the output trace. -/
theorem State.drawn_eq (s : State) (r : Framebuffer × Bool) : s.drawn r = { s with
    fb := r.1, v := s.v.set 15 (flagOf (r.2 = true)), pc := s.pc + 2, renders := s.renders ++ [r.1] } := by
  rw [← flagByte_decide, Bool.decide_eq_true]
  rfl

/-- Settles O45: the sprite's rows are the bytes from `I` up, and a pixel no row covers is outside the sprite. -/
theorem drawXorsTheSprite : Obligations.DrawXorsTheSprite := by
  refine fun x y n => ⟨isWordOf_of_encode_toNat (formatXYN_toNat 0xD x y n), fun s hfit => ?_⟩
  have hrows : (s.bytesAt s.i.toNat n.toNat).length = n.toNat := State.bytesAt_length ..
  refine ⟨_, _, execDrw_eq_next.2 (.inr ⟨hfit, (State.drawn_eq ..).symm⟩),
    fun px py hx hy => ⟨?_, fun hout => ?_⟩, raster_hit_iff_unsets⟩
  · rintro r c hr hc rfl rfl
    rw [pixelAt_raster_inside s.fb (hrows.symm ▸ hr) hc hx hy, State.bytesAt_getElem]
  · refine pixelAt_raster_outside s.fb fun hin => ?_
    exact hout (py - (s.reg y).toNat) (px - (s.reg x).toNat) (by omega) (by omega) (by omega)

/-- Settles O46: the check of the sprite's addresses precedes every effect (R156). -/
theorem drawOutsideMemoryFaults : Obligations.DrawOutsideMemoryFaults := by
  intro x y n s hn hout
  have hpast : memSize < s.i.toNat + n.toNat := by
    rw [memSize]
    omega
  exact execDrw_eq_next.2 (.inl ⟨⟨hn, hpast⟩, rfl⟩)

/-! ## The output trace (R155, R224) -/

section
variable (s : State) (n : Nat) (c : Bool) (r : Framebuffer × Bool)

@[simp] theorem State.advanceI_renders : (s.advanceI n).renders = s.renders := by rw [State.advanceI_eq]
@[simp] theorem State.flagIfEnabled_renders : (s.flagIfEnabled c).renders = s.renders := by
  rw [State.flagIfEnabled_eq]
@[simp] theorem State.drawn_renders : (s.drawn r).renders = s.renders ++ [r.1] := rfl

end

/-- Only a draw emits a `Render` (D18). -/
theorem Completes.renders {s t : State} {i : Instr} (h : Completes s i t) (hdrw : ∀ x y n, i ≠ .drw x y n) :
    t.renders = s.renders := by
  cases h with
  | drw x y n _ => exact absurd rfl (hdrw x y n)
  | _ => simp

/-- A fault and the wait of `FX0A` emit none either. -/
theorem exec_renders {i : Instr} {s t : State} (h : exec i s = .next t) (hdrw : ∀ x y n, i ≠ .drw x y n) :
    t.renders = s.renders := by
  obtain ⟨f, -, rfl⟩ | ⟨x, -, -, rfl⟩ | hc := exec_outcomes h
  · rfl
  · rfl
  · exact hc.renders hdrw

/-- Settles O27: a draw that faults is no longer running and has rendered nothing. -/
theorem renderOncePerCompletedDraw : Obligations.RenderOncePerCompletedDraw := by
  intro i s t hrun h
  cases i with
  | drw x y n =>
    obtain ⟨-, rfl⟩ | ⟨-, rfl⟩ := execDrw_eq_next.1 h
    · exact ⟨nofun, fun _ => rfl⟩
    · exact ⟨fun _ => rfl, fun hne => absurd hrun hne⟩
  | _ => exact exec_renders h nofun

end Sys2Proof.Machine
end

section
/-! PROOFS. The key skips (R160 to R162): a skip on the key that a register names, the fault of a register that names
none, and the two instructions as the two polarities of the one skip. -/

namespace Sys2Proof.Machine

/-- A word of the format `kXNN` (R72). -/
theorem isWordOf_formatXNN {i : Instr} {x : RegId} (k : BitVec 4) (nn : Byte) (h : encode i = formatXNN k x nn) :
    IsWordOf (0x1000 * k.toNat + nn.toNat + 0x100 * x.val) i := by
  refine isWordOf_of_encode_toNat ?_
  rw [h, formatXNN_toNat]
  omega

section
variable {s : State} {x : RegId}

/-- A value above 15 names no key, whichever latch value the skip tests (R162, D19). -/
theorem State.keySkip_of_not_key (c : Bool → Bool) (h : 15 < (s.reg x).toNat) :
    s.keySkip x c = .next (s.raise (.operandOutOfRange (s.reg x))) :=
  keySkip_eq_next.2 (.inl ⟨h, rfl⟩)

/-- The skip reads the latch of the key that the register names (R160, R161). -/
theorem State.keySkip_of_key (c : Bool → Bool) {k : KeyId} (hk : k.val = (s.reg x).toNat) :
    s.keySkip x c = .next (s.skipIf (c (s.keyDown k))) := by
  have hlt : (s.reg x).toNat < 16 := hk ▸ k.isLt
  obtain rfl : k = ⟨(s.reg x).toNat, hlt⟩ := Fin.ext hk
  exact keySkip_eq_next.2 (.inr ⟨hlt, rfl⟩)

end

/-- Settles O36: both instructions fault alike on a value above 15, and skip on opposite values of the same latch. -/
theorem keySkips : Obligations.KeySkips := by
  refine fun x s => ⟨?_, ?_, fun h => ⟨?_, ?_⟩, fun k hk => ⟨?_, ?_⟩⟩
  · exact isWordOf_formatXNN 0xE 0x9E rfl
  · exact isWordOf_formatXNN 0xE 0xA1 rfl
  · exact State.keySkip_of_not_key (fun down => down) h
  · exact State.keySkip_of_not_key (fun down => !down) h
  · rw [← s.skipIf_of_iff Iff.rfl]
    exact State.keySkip_of_key (fun down => down) hk
  · rw [← ite_not, ← s.skipIf_of_iff Bool.not_iff_not]
    exact State.keySkip_of_key (fun down => !down) hk

end Sys2Proof.Machine
end

section
/-! PROOFS. Timer, key, font and memory transfers (R170 to R177): the words and effects of the instructions, the
wait of `FX0A` from its start to its end, and a register block stored and loaded back. -/

namespace Sys2Proof.Machine

/-! ## Timers (R170, R172, R173) -/

/-- Settles O48: each transfer is one write, and `PC` moves on. -/
theorem timerTransfers : Obligations.TimerTransfers := by
  refine fun x s => ⟨⟨isWordOf_groupF 0x07 rfl, ?_⟩, ⟨isWordOf_groupF 0x15 rfl, ?_⟩, isWordOf_groupF 0x18 rfl, ?_⟩
  · exact complete_setReg s x s.dt
  · exact complete_eq (s.setDt (s.reg x))
  · exact complete_eq (s.setSt (s.reg x))

/-! ## The key wait (R171) -/

/-- Settles O49: the key below which none is down is the lowest one (D20). -/
theorem keyWaitInstruction : Obligations.KeyWaitInstruction := by
  refine fun x s => ⟨isWordOf_groupF 0x0A rfl, fun k hk hlow => ?_, fun hup => ?_⟩
  · exact execLdVxK_eq_next.2 (.inr ⟨k, State.lowestKey_eq_some.2 ⟨hk, hlow⟩, rfl⟩)
  · exact execLdVxK_eq_next.2 (.inl ⟨State.lowestKey_eq_none.2 hup, rfl⟩)

/-- Settles O10: the waiting step asks for the lowest key as `FX0A` does, without a fetch. -/
theorem waitingStepChecksKeysOnly : Obligations.WaitingStepChecksKeysOnly := by
  intro s x hwait
  have hstep : step s = waitStep x s := by rw [step, hwait]
  rw [hstep]
  refine ⟨fun hup => ?_, fun k hk hlow => ?_⟩
  · exact waitStep_eq_next.2 (.inl ⟨State.lowestKey_eq_none.2 hup, rfl⟩)
  · exact waitStep_eq_next.2 (.inr ⟨k, State.lowestKey_eq_some.2 ⟨hk, hlow⟩, rfl⟩)

/-! ## The glyph of a digit (R174) -/

theorem glyphAddress_eq_ofNat (cfg : Config) (d : Byte) :
    glyphAddress cfg d = BitVec.ofNat 16 (cfg.fontBase.toNat + 5 * d.toNat) := by
  rw [glyphAddress, BitVec.ofNat_add, BitVec.ofNat_toNat, BitVec.setWidth_eq]

/-- Settles O50: a value above 15 names no digit (D19). -/
theorem glyphAddressOfADigit : Obligations.GlyphAddressOfADigit := by
  refine fun x s => ⟨isWordOf_groupF 0x29 rfl, fun hout => ?_, fun hdigit => ?_⟩
  · exact execLdF_eq_next.2 (.inl ⟨hout, rfl⟩)
  · rw [← glyphAddress_eq_ofNat]
    exact execLdF_eq_next.2 (.inr ⟨Nat.lt_succ_of_le hdigit, rfl⟩)

/-! ## The decimal digits (R175) -/

/-- The digits as numbers, hundreds first (D8). -/
theorem decimalDigits_toNat (a : Byte) :
    (decimalDigits a).map BitVec.toNat = [a.toNat / 100, a.toNat / 10 % 10, a.toNat % 10] := by
  have ha := a.isLt
  simp only [decimalDigits, List.map_cons, List.map_nil, BitVec.toNat_ofNat, List.cons.injEq, and_true]
  omega

/-- After `FX33` the k-th byte from `I` is the k-th digit (R175). -/
theorem Completes.byteAt_digit {s t : State} {x : RegId} (hm : Memory.wf s.cfg s.mem = true)
    (h : Completes s (.ldB x) t) {k : Nat} (hk : k < 3) : (t.byteAt (s.i.toNat + k)).toNat =
      [(s.reg x).toNat / 100, (s.reg x).toNat / 10 % 10, (s.reg x).toNat % 10][k] := by
  cases h with
  | ldB x hfit =>
    rw [State.advance_byteAt, State.byteAt_putBytes_in hm hfit hk]
    exact (List.getElem_map BitVec.toNat).symm.trans (List.getElem_of_eq (decimalDigits_toNat _) hk)

/-- Settles O51: the check of the three addresses precedes the store (R59). -/
theorem decimalDigitsAreStored : Obligations.DecimalDigitsAreStored := by
  refine fun x s => ⟨isWordOf_groupF 0x33 rfl, fun hout => ?_, fun hm hfit => ?_⟩
  · exact execLdB_eq_next.2 (.inl ⟨Nat.lt_succ_of_le hout, rfl⟩)
  · have hc := Completes.ldB x hfit
    refine ⟨_, execLdB_eq_next.2 (.inr ⟨hfit, rfl⟩), ?_, hc.byteAt_digit hm (k := 0) (by decide),
      hc.byteAt_digit hm (k := 1) (by decide), hc.byteAt_digit hm (k := 2) (by decide), fun a ha => ?_⟩
    · rw [State.putBytes_eq]
      rfl
    · exact hc.byteAt (by rw [storedBytes]; omega)

/-! ## The register block (R176, R177) -/

/-- `I` after a block of `n` bytes, under either increment policy (D15). -/
theorem State.advanceI_i (s : State) (n : Nat) : (s.advanceI n).i =
    if s.cfg.loadStoreIncrementsI = true then BitVec.ofNat 16 ((s.i.toNat + n) % 0x10000) else s.i := by
  have hsum : s.i + BitVec.ofNat 16 n = BitVec.ofNat 16 ((s.i.toNat + n) % 0x10000) :=
    BitVec.eq_of_toNat_eq (by simp)
  rw [State.advanceI_eq, hsum]

/-- Settles O52: the check of all addresses precedes the store (R59). -/
theorem registerBlockIsStored : Obligations.RegisterBlockIsStored := by
  refine fun x s => ⟨isWordOf_groupF 0x55 rfl, fun hout => ?_, fun hm hfit => ?_⟩
  · exact execLdMemVx_eq_next.2 (.inl ⟨Nat.lt_succ_of_le hout, rfl⟩)
  · have hc := Completes.ldMemVx x hfit
    refine ⟨_, execLdMemVx_eq_next.2 (.inr ⟨hfit, rfl⟩), ?_, ?_, hc.byteAt_stored hm, fun a ha => ?_⟩
    · rw [State.advanceI_eq, State.putBytes_eq]
      rfl
    · rw [State.advance_i, State.advanceI_i, State.putBytes_cfg, State.putBytes_i]
      rfl
    · exact hc.byteAt (by rw [storedBytes]; omega)

/-- After `FX65` the registers up to X hold the bytes from the old `I` up (R177). -/
theorem Completes.reg_loaded {s t : State} {x : RegId} (h : Completes s (.ldVxMem x) t) (r : RegId) :
    t.reg r = if r ≤ x then s.byteAt (s.i.toNat + r.val) else s.reg r := by
  cases h with
  | ldVxMem x _ =>
    rw [State.advance_reg, State.advanceI_reg, State.setRegBlock_reg]
    have hlen : r.val < (s.bytesAt s.i.toNat (x.val + 1)).length ↔ r ≤ x := by
      rw [State.bytesAt_length, Nat.lt_succ_iff, Fin.le_def]
    split
    case isTrue hr => rw [List.getD_eq_getElem _ _ (hlen.2 hr), State.bytesAt_getElem]
    case isFalse hr => rw [List.getD_eq_default _ _ (not_lt.1 (hlen.not.2 hr))]

/-- Settles O53: the check of all addresses precedes the load (R59). -/
theorem registerBlockIsLoaded : Obligations.RegisterBlockIsLoaded := by
  refine fun x s => ⟨isWordOf_groupF 0x65 rfl, fun hout => ?_, fun hfit => ?_⟩
  · exact execLdVxMem_eq_next.2 (.inl ⟨Nat.lt_succ_of_le hout, rfl⟩)
  · have hc := Completes.ldVxMem x hfit
    refine ⟨_, execLdVxMem_eq_next.2 (.inr ⟨hfit, rfl⟩), ?_, ?_, hc.reg_loaded⟩
    · rw [State.advanceI_eq]
      rfl
    · rw [State.advance_i, State.advanceI_i]
      rfl

/-- Settles O54: the load reads at the old `I` the bytes that the store left there. -/
theorem storeThenLoadGivesTheRegistersBack : Obligations.StoreThenLoadGivesTheRegistersBack := by
  intro x s t v hm hfit hstore
  obtain ⟨-, -, hstores⟩ := registerBlockIsStored x s
  obtain ⟨t', ht', -, -, hstored, -⟩ := hstores hm hfit
  obtain rfl : t' = t := Host.Outcome.next.inj (ht'.symm.trans hstore)
  obtain ⟨-, -, hloads⟩ := registerBlockIsLoaded x { t' with i := s.i, v := v }
  obtain ⟨u, hu, -, -, hloaded⟩ := hloads hfit
  refine ⟨u, hu, fun r => (hloaded r).trans ?_⟩
  exact ite_congr rfl (hstored r) fun _ => rfl

end Sys2Proof.Machine
end


section
/-! PROOFS. Faults and the host's events (R200 to R227): who raises a fault and what it leaves, what a machine that has
one answers, the timers, the key latches and the sound level, and the host events an instruction commutes with. -/

namespace Sys2Proof.Machine

/-! ## Raising a fault (R204, R207) -/

/-- A fault that was not there before is one the instruction can raise, and changes `STATUS` alone. -/
theorem exec_raises {i : Instr} {s t : State} {f : Fault} (h : exec i s = .next t)
    (hs : s.status ≠ .faulted f) (ht : t.status = .faulted f) : canRaise i f ∧ t = s.raise f := by
  obtain ⟨g, hg, rfl⟩ | ⟨x, -, -, rfl⟩ | hc := exec_outcomes h
  · cases ht
    exact ⟨hg, rfl⟩
  · cases ht
  · exact absurd (hc.status.symm.trans ht) hs

/-- A waiting step keeps waiting or goes on running. -/
theorem waitStep_not_faulted {x : RegId} {s t : State} (hwait : s.status = .awaitingKey x)
    (h : waitStep x s = .next t) (f : Fault) : t.status ≠ .faulted f := by
  obtain ⟨-, rfl⟩ | ⟨k, -, rfl⟩ := waitStep_eq_next.1 h
  · rw [hwait]
    nofun
  · nofun

/-- A step that ends in a fault was a running one, stopped at fetch, at decode, or by its instruction. -/
theorem step_raises {s t : State} {f : Fault} (h : step s = .next t) (ht : t.status = .faulted f) :
    s.status = .running ∧ t = s.raise f ∧
      (s.fetchDecode = .error f ∨ ∃ i, s.fetchDecode = .ok i ∧ canRaise i f) := by
  obtain ⟨hrun, g, hg, rfl⟩ | ⟨hrun, i, hi, he⟩ | ⟨x, hwait, hw⟩ := step_eq_next.1 h
  · cases ht
    exact ⟨hrun, rfl, .inl hg⟩
  · obtain ⟨hcan, hraise⟩ := exec_raises he (by simp [hrun]) ht
    exact ⟨hrun, hraise, .inr ⟨i, hi, hcan⟩⟩
  · exact absurd ht (waitStep_not_faulted hwait hw f)

/-- An event that is enabled on a live machine only, and keeps `STATUS`, ends in no fault. -/
theorem whenLive_not_faulted {s s' t : State} (h : whenLive s s' = .next t) (hkeep : s'.status = s.status)
    (f : Fault) : t.status ≠ .faulted f := by
  obtain ⟨hlive, rfl⟩ := whenLive_eq_next.1 h
  exact hkeep ▸ hlive f

theorem load_raises {s t : State} {bytes : List Byte} {f : Fault} (h : load bytes s = .next t)
    (hs : s.status ≠ .faulted f) (ht : t.status = .faulted f) : t = s.raise f := by
  obtain ⟨-, rfl⟩ | ⟨-, rfl⟩ := load_eq_next.1 h
  · cases ht
    rfl
  · exact absurd ((State.putBytes_status ..).symm.trans ht) hs

/-- Settles O14: of the five events only a step and a load raise a fault, and both by `State.raise`. -/
theorem faultEntryChangesStatusOnly : Obligations.FaultEntryChangesStatusOnly := by
  intro e h h' f hlive hh ht
  cases e with
  | reset =>
    cases hh
    cases ht
  | load bytes =>
    obtain ⟨-, -, s, hs, rfl⟩ := Session.load_eq_next.1 hh
    exact load_raises hs (hlive f) ht
  | step =>
    obtain ⟨s, hs, rfl⟩ := Session.after_eq_next.1 hh
    obtain ⟨-, hraise, -⟩ := step_raises hs ht
    exact hraise
  | tick | setKey k pressed =>
    obtain ⟨s, hs, rfl⟩ := Session.after_eq_next.1 hh
    exact absurd ht (whenLive_not_faulted hs rfl f)

/-- The fault of a fetch (D25, D35) or of a decode (R87). -/
theorem State.fetchDecode_fault {s : State} {f : Fault} (h : s.fetchDecode = .error f) :
    (0xFFF ≤ s.pc.toNat ∧ f = .memoryOutOfBounds (max s.pc.toNat 0x1000)) ∨
      ∃ w, IllegalWord s.cfg.bnnnEnabled w ∧ f = .unknownOpcode w := by
  obtain ⟨hpc, rfl⟩ | ⟨-, u, hu, rfl⟩ := State.fetchDecode_eq_error.1 h
  · exact .inl ⟨Nat.le_of_succ_le_succ hpc, rfl⟩
  · obtain ⟨hill, rfl⟩ := decode_eq_unknownOpcode.1 hu
    exact .inr ⟨_, hill, rfl⟩

/-- Settles O15: the ways a step can raise, and the events that cannot. -/
theorem onlyTheNamedInstructionsFault : Obligations.OnlyTheNamedInstructionsFault := by
  refine ⟨fun s t f _ h ht => ?_, fun s t i f hrun h ht => ?_, fun s t f ht => ⟨?_, ?_, ?_⟩⟩
  · obtain ⟨-, -, hfetch | hexec⟩ := step_raises h ht
    · exact (State.fetchDecode_fault hfetch).imp_right .inl
    · exact .inr (.inr hexec)
  · exact (exec_raises h (by simp [hrun]) ht).1
  · intro x hwait h
    have hrun := (step_raises h ht).1
    cases hwait.symm.trans hrun
  · exact fun h => whenLive_not_faulted h rfl f ht
  · exact fun k b h => whenLive_not_faulted h rfl f ht

/-! ## A faulted machine (R208, R240) -/

theorem whenLive_of_faulted {s s' : State} {f : Fault} (h : s.status = .faulted f) :
    whenLive s s' = .fault f := by
  rw [whenLive, h]

theorem step_of_faulted {s : State} {f : Fault} (h : s.status = .faulted f) : step s = .fault f := by
  rw [step, h]

theorem Session.load_of_faulted {h : Session} {f : Fault} (hf : h.core.status = .faulted f)
    (bytes : List Byte) : h.load bytes = .fault f := by
  simp only [Session.load, hf]

/-- Settles O16: the model's answer is the recorded fault (log 4), and `Reset` asks for no status. -/
theorem faultedMachineAcceptsOnlyReset : Obligations.FaultedMachineAcceptsOnlyReset := by
  intro h f hf
  refine ⟨?_, ?_, fun k b => ?_, Session.load_of_faulted hf, _, rfl, rfl⟩
  · exact congrArg Session.after (step_of_faulted hf)
  · exact congrArg Session.after (whenLive_of_faulted hf)
  · exact congrArg Session.after (whenLive_of_faulted hf)

/-! ## The timers and the key latches (R215, R216, R222) -/

/-- A timer stops at 0 (R215). -/
theorem countDown_toNat (b : Byte) : (countDown b).toNat = b.toNat - 1 := by
  by_cases h : b = 0
  · simp [countDown, h]
  · have hpos : b.toNat ≠ 0 := fun h0 => h (BitVec.eq_of_toNat_eq h0)
    have hlt := b.isLt
    rw [countDown, if_neg h, BitVec.toNat_sub, show (1 : Byte).toNat = 1 from rfl]
    omega

/-- Settles O57, by induction on the number of ticks. -/
theorem ticksCountBothTimersDown : Obligations.TicksCountBothTimersDown := by
  intro k
  induction k with
  | zero => exact fun s _ => ⟨s, rfl, rfl, rfl, rfl⟩
  | succ k ih =>
    intro s hlive
    have htick : tick s = .next s.ticked := whenLive_eq_next.2 ⟨hlive, rfl⟩
    obtain ⟨t, hrest, hframe, hdt, hst⟩ := ih s.ticked hlive
    refine ⟨t, ?_, hframe, ?_, ?_⟩
    · rw [repeatEvent, htick]
      exact hrest
    · rw [hdt, State.ticked_dt, countDown_toNat]
      omega
    · rw [hst, State.ticked_st, countDown_toNat]
      omega

/-- Settles O58: the one write of `SetKey` is the latch. -/
theorem setKeyWritesOneLatch : Obligations.SetKeyWritesOneLatch :=
  fun k b s hlive =>
    ⟨s.setKeyLatch k b, whenLive_eq_next.2 ⟨hlive, rfl⟩, rfl, fun j => s.setKeyLatch_keyDown k j b⟩

/-! ## The sound level (R226) -/

theorem State.audioActive_iff {s : State} : s.audioActive = true ↔ s.st ≠ 0 := by
  rw [State.audioActive, decide_eq_true_iff, Nat.pos_iff_ne_zero, ne_eq, ne_eq, ← BitVec.toNat_inj]
  rfl

theorem State.audioActive_eq_false {s : State} : s.audioActive = false ↔ s.st = 0 := by
  rw [← Bool.not_eq_true, State.audioActive_iff, not_not]

/-- The level is a function of `ST`. -/
theorem State.audioActive_congr {s t : State} (h : t.st = s.st) : t.audioActive = s.audioActive := by
  rw [State.audioActive, h, State.audioActive]

/-- Only the count from 1 to 0 reaches 0 from above (R215). -/
theorem countDown_eq_zero {b : Byte} (hb : b ≠ 0) : countDown b = 0 ↔ b = 1 := by
  rw [countDown, if_neg hb, sub_eq_zero]

/-- Settles O60: a step changes `ST` by `FX18` only, and a tick turns the level off with the last count. -/
theorem audioFollowsTheSoundTimer : Obligations.AudioFollowsTheSoundTimer := by
  refine ⟨fun s => decide_eq_true_iff, fun s t h hne => ?_, fun s t h hne => ?_⟩
  · obtain ⟨-, -, -, hkeep | ⟨x, hf, hst⟩⟩ := stepNeverCountsTimersOrMovesKeys s t h
    · exact absurd (State.audioActive_congr hkeep) hne
    · exact ⟨x, hf, hst ▸ State.audioActive_iff⟩
  · obtain ⟨-, rfl⟩ := whenLive_eq_next.1 h
    have hon : s.st ≠ 0 := by
      intro hzero
      exact hne (State.audioActive_congr (by rw [State.ticked_st, hzero]; rfl))
    have hlast : s.ticked.st = 0 := by
      by_contra hleft
      exact hne ((State.audioActive_iff.2 hleft).trans (State.audioActive_iff.2 hon).symm)
    exact ⟨(countDown_eq_zero hon).1 hlast, State.audioActive_eq_false.2 hlast⟩

/-! ## Host events and instructions (R210, R211) -/

/-- What the host's events write on a live machine: `f` and `g` to the two timers, `k` to the key latches. -/
def State.hostUpdate (f g : Byte → Byte) (k : Vector Bool 16 → Vector Bool 16) (s : State) : State :=
  { s with dt := f s.dt, st := g s.st, key := k s.key }

theorem State.ticked_eq_hostUpdate (s : State) : s.ticked = s.hostUpdate countDown countDown id := rfl

theorem State.setKeyLatch_eq_hostUpdate (s : State) (j : KeyId) (b : Bool) :
    s.setKeyLatch j b = s.hostUpdate id id (·.set j.val b) := rfl

section
variable {f g : Byte → Byte} {k : Vector Bool 16 → Vector Bool 16} {s t : State}

theorem State.putBytes_hostUpdate (a : Nat) (bs : List Byte) :
    (s.hostUpdate f g k).putBytes a bs = (s.putBytes a bs).hostUpdate f g k := by
  induction bs generalizing s a with
  | nil => rfl
  | cons b bs ih => exact ih (s := s.putByte a b) (a + 1)

theorem State.advanceI_hostUpdate (n : Nat) :
    (s.hostUpdate f g k).advanceI n = (s.advanceI n).hostUpdate f g k := by
  rw [State.advanceI_eq, State.advanceI_eq]
  rfl

theorem State.flagIfEnabled_hostUpdate (c : Bool) :
    (s.hostUpdate f g k).flagIfEnabled c = (s.flagIfEnabled c).hostUpdate f g k := by
  rw [State.flagIfEnabled_eq, State.flagIfEnabled_eq]
  rfl

/-- The two ways an access answers, each carried over by the update. -/
theorem hostUpdate_cases {p q : Prop} {u v u' v' : State} (h : (p ∧ t = u) ∨ (q ∧ t = v))
    (hu : u' = u.hostUpdate f g k) (hv : v' = v.hostUpdate f g k) :
    (p ∧ t.hostUpdate f g k = u') ∨ (q ∧ t.hostUpdate f g k = v') := by
  rw [hu, hv]
  exact h.imp (And.imp_right (congrArg _)) (And.imp_right (congrArg _))

/-- A key skip commutes with an update that leaves the keys alone. -/
theorem keySkip_hostUpdate {x : RegId} {c : Bool → Bool} (h : s.keySkip x c = .next t) :
    (s.hostUpdate f g id).keySkip x c = .next (t.hostUpdate f g id) := by
  obtain ⟨hout, rfl⟩ | ⟨hkey, rfl⟩ := keySkip_eq_next.1 h
  · exact keySkip_eq_next.2 (.inl ⟨hout, rfl⟩)
  · exact keySkip_eq_next.2 (.inr ⟨hkey, rfl⟩)

/-- An instruction commutes with an update of the timers if it names none, and of the keys if it reads none. -/
theorem exec_hostUpdate {i : Instr} (h : exec i s = .next t)
    (htimer : (f = id ∧ g = id) ∨ ∀ x, i ≠ .ldVxDt x ∧ i ≠ .ldDtVx x ∧ i ≠ .ldStVx x)
    (hkeys : k = id ∨ ∀ x, i ≠ .skp x ∧ i ≠ .sknp x ∧ i ≠ .ldVxK x) :
    exec i (s.hostUpdate f g k) = .next (t.hostUpdate f g k) := by
  cases i with
  | ldVxDt x | ldDtVx x | ldStVx x =>
    obtain ⟨rfl, rfl⟩ := htimer.resolve_right fun hne => by simpa using hne x
    cases h
    rfl
  | skp x =>
    obtain rfl := hkeys.resolve_right fun hne => by simpa using hne x
    exact keySkip_hostUpdate (c := fun down => down) h
  | sknp x =>
    obtain rfl := hkeys.resolve_right fun hne => by simpa using hne x
    exact keySkip_hostUpdate (c := fun down => !down) h
  | ldVxK x =>
    obtain rfl := hkeys.resolve_right fun hne => by simpa using hne x
    obtain ⟨hup, rfl⟩ | ⟨j, hdown, rfl⟩ := execLdVxK_eq_next.1 h
    · exact execLdVxK_eq_next.2 (.inl ⟨hup, rfl⟩)
    · exact execLdVxK_eq_next.2 (.inr ⟨j, hdown, rfl⟩)
  | ret =>
    obtain ⟨hempty, rfl⟩ | ⟨hlive, rfl⟩ := execRet_eq_next.1 h
    · exact execRet_eq_next.2 (.inl ⟨hempty, rfl⟩)
    · exact execRet_eq_next.2 (.inr ⟨hlive, rfl⟩)
  | call nnn =>
    obtain ⟨hfull, rfl⟩ | ⟨hroom, rfl⟩ := execCall_eq_next.1 h
    · exact execCall_eq_next.2 (.inl ⟨hfull, rfl⟩)
    · exact execCall_eq_next.2 (.inr ⟨hroom, rfl⟩)
  | drw x y n => exact execDrw_eq_next.2 (hostUpdate_cases (execDrw_eq_next (s := s) |>.1 h) rfl rfl)
  | ldF x => exact execLdF_eq_next.2 (hostUpdate_cases (execLdF_eq_next (s := s) |>.1 h) rfl rfl)
  | ldB x => exact execLdB_eq_next.2 (hostUpdate_cases (execLdB_eq_next (s := s) |>.1 h) rfl rfl)
  | ldMemVx x =>
    refine execLdMemVx_eq_next.2 (hostUpdate_cases (execLdMemVx_eq_next (s := s) |>.1 h) rfl ?_)
    rw [State.putBytes_hostUpdate, State.advanceI_hostUpdate]
    rfl
  | ldVxMem x =>
    refine execLdVxMem_eq_next.2 (hostUpdate_cases (execLdVxMem_eq_next (s := s) |>.1 h) rfl ?_)
    exact congrArg State.advance (State.advanceI_hostUpdate (s := s.setRegBlock _) _)
  | addI x =>
    cases h
    exact congrArg complete (State.flagIfEnabled_hostUpdate (s := s.setI (s.i + widen (s.reg x))) _)
  | _ =>
    cases h
    rfl

end

/-- Settles O59: a tick updates the timers alone and `SetKey` the keys alone; both runs of `CXNN` draw the byte of
the same count (log 3). -/
theorem hostEventsCommuteWithOtherInstructions : Obligations.HostEventsCommuteWithOtherInstructions := by
  refine fun i s t h => ⟨fun htimer => ?_, fun hkeys j b => ?_⟩
  · rw [State.ticked_eq_hostUpdate, State.ticked_eq_hostUpdate]
    exact exec_hostUpdate h (.inr htimer) (.inl rfl)
  · rw [State.setKeyLatch_eq_hostUpdate, State.setKeyLatch_eq_hostUpdate]
    exact exec_hostUpdate h (.inl ⟨rfl, rfl⟩) (.inr hkeys)

end Sys2Proof.Machine
end

section
/-! PROOFS. The end of a run (R256) and the program load (R243, R244): a jump to its own address changes nothing, and
`Load` right after `Reset` copies the image above the font, raises RomTooLarge, or is not enabled. -/

namespace Sys2Proof.Machine

/-! ## The end of a run (R256) -/

/-- The jump writes `PC` only (R102), and with the value it has. -/
theorem exec_jp_self {s : State} {nnn : BitVec 12} (h : addressOf nnn = s.pc) :
    exec (.jp nnn) s = .next s :=
  calc exec (.jp nnn) s
    _ = .next (s.setPc (addressOf nnn)) := rfl
    _ = .next s := by rw [h]; rfl

/-- Settles O13: the step is the jump. -/
theorem selfJumpIsAFixedPoint : Obligations.SelfJumpIsAFixedPoint := by
  rintro s ⟨hrun, nnn, hfetch, hself⟩
  exact (step_of_running hrun hfetch).trans (exec_jp_self hself)

/-! ## The program load (R243, R244) -/

/-- A live machine that has had an event since `Reset` takes no `Load`. -/
theorem Session.load_of_closed {h : Session} (hlive : ∀ f, h.core.status ≠ .faulted f)
    (hclosed : h.loadOpen = false) (bytes : List Byte) : h.load bytes = .refused .loadNotEnabled := by
  cases hs : h.core.status with
  | running | awaitingKey x => simp only [Session.load, hs, hclosed]
  | faulted f => exact absurd hs (hlive f)

/-- Settles O56: an image of at most 0xE00 bytes ends below 0x1000, so that each of its bytes is in memory; the font
lies below 0x200. -/
theorem loadCopiesTheImage : Obligations.LoadCopiesTheImage := by
  refine fun h bytes hlive => ⟨fun hclosed => ?_, fun hopen hlong => ?_, fun hopen hshort hmem => ?_⟩
  · exact Session.load_of_closed hlive hclosed bytes
  · exact Session.load_eq_next.2 ⟨hlive, hopen, _, load_eq_next.2 (.inl ⟨hlong, rfl⟩), rfl⟩
  · have hfit : loadBase + bytes.length ≤ memSize := Nat.add_le_add_left hshort loadBase
    refine ⟨h.core.putBytes loadBase bytes, ?_, State.putBytes_eq .., fun k hk => ?_, fun a ha => ?_,
      fun hcfg k => ?_⟩
    · exact Session.load_eq_next.2 ⟨hlive, hopen, _, load_eq_next.2 (.inr ⟨hshort, rfl⟩), rfl⟩
    · rw [List.getD_eq_getElem _ _ hk]
      exact State.byteAt_putBytes_in hmem hfit hk
    · exact State.byteAt_putBytes_out _ ha
    · exact State.byteAt_putBytes_out _ (.inl (font_lt_loadBase hcfg k))

end Sys2Proof.Machine
end
